-- ==== Sys2Proof/Word.lean ====
section
/-! DEFINITION. The widths of the block (00 R4): bytes, 16-bit words, 12-bit immediates, register numbers. -/

namespace Sys2Proof

/-- A general register, a timer or a memory cell: 8 bits (R4). -/
abbrev Byte := BitVec 8

/-- PC, I, a stack entry or an instruction word: 16 bits (R4). -/
abbrev Word := BitVec 16

/-- The 12-bit immediate NNN (R6). -/
abbrev Imm12 := BitVec 12

/-- A number 0 to 15: a general register (R11), a key (R23) or a stack entry (R16). -/
abbrev Reg := Fin 16

/-- VF, the register that doubles as the flag output (R12). -/
abbrev regF : Reg := 15

end Sys2Proof
end

