-- ==== Sys2Proof/Syntax.lean ====
section
/-! DEFINITION. The instructions (30 R63): one constructor per row of spec/opcode_table.json, 34 in all. Operands are
the fields of 00 R6, as unsigned numbers of their own width (30 R64). -/

namespace Sys2Proof

/-- One instruction. A register operand is a number 0 to 15, NN a byte, NNN a 12-bit number; the row count N is a plain
number that WellFormed bounds. The docstrings give the pattern of R63 and the rule of the meaning. -/
inductive Instr where
  /-- 00E0 (R145) -/
  | cls
  /-- 00EE (R95) -/
  | ret
  /-- 1NNN (R96) -/
  | jpNnn (nnn : Imm12)
  /-- 2NNN (R97) -/
  | callNnn (nnn : Imm12)
  /-- 3XNN (R98) -/
  | seVxNn (x : Reg) (nn : Byte)
  /-- 4XNN (R99) -/
  | sneVxNn (x : Reg) (nn : Byte)
  /-- 5XY0 (R100) -/
  | seVxVy (x y : Reg)
  /-- 6XNN (R112) -/
  | ldVxNn (x : Reg) (nn : Byte)
  /-- 7XNN (R113) -/
  | addVxNn (x : Reg) (nn : Byte)
  /-- 8XY0 (R114) -/
  | ldVxVy (x y : Reg)
  /-- 8XY1 (R115) -/
  | orVxVy (x y : Reg)
  /-- 8XY2 (R116) -/
  | andVxVy (x y : Reg)
  /-- 8XY3 (R117) -/
  | xorVxVy (x y : Reg)
  /-- 8XY4 (R118) -/
  | addVxVy (x y : Reg)
  /-- 8XY5 (R119) -/
  | subVxVy (x y : Reg)
  /-- 8XY6 (R120). Y is a field of the word and no operand: the meaning ignores it. [DESIGN CHOICE safe: log 14] -/
  | shrVx (x y : Reg)
  /-- 8XY7 (R121) -/
  | subnVxVy (x y : Reg)
  /-- 8XYE (R122). Y as in 8XY6. [DESIGN CHOICE safe: log 14] -/
  | shlVx (x y : Reg)
  /-- 9XY0 (R101) -/
  | sneVxVy (x y : Reg)
  /-- ANNN (R130) -/
  | ldINnn (nnn : Imm12)
  /-- BNNN (R102) -/
  | jpV0Nnn (nnn : Imm12)
  /-- CXNN (R123) -/
  | rndVxNn (x : Reg) (nn : Byte)
  /-- DXYN (R146) -/
  | drwVxVyN (x y : Reg) (n : Nat)
  /-- EX9E (R162) -/
  | skpVx (x : Reg)
  /-- EXA1 (R163) -/
  | sknpVx (x : Reg)
  /-- FX07 (R155) -/
  | ldVxDt (x : Reg)
  /-- FX0A (R165) -/
  | ldVxK (x : Reg)
  /-- FX15 (R156) -/
  | ldDtVx (x : Reg)
  /-- FX18 (R157) -/
  | ldStVx (x : Reg)
  /-- FX1E (R131) -/
  | addIVx (x : Reg)
  /-- FX29 (R132) -/
  | ldFVx (x : Reg)
  /-- FX33 (R133) -/
  | ldBVx (x : Reg)
  /-- FX55 (R134) -/
  | ldMiVx (x : Reg)
  /-- FX65 (R135) -/
  | ldVxMi (x : Reg)
deriving DecidableEq, Repr

/-- One row of the opcode map (R62, R63): a word w is of the row when `w &&& mask = value`. -/
structure OpcodeRow where
  value : Word
  mask : Word
deriving DecidableEq, Repr

/-- Why a byte sequence gives no instruction. -/
inductive Reject where
  /-- The word matches no pattern of R63 (R65); the step then reports OpcodeError (R171). -/
  | unmatched (op : Word)
  /-- Fewer than the two bytes every instruction has (R60). [DESIGN CHOICE safe: log 15] -/
  | truncated
deriving DecidableEq, Repr

end Sys2Proof
end

