-- ==== Sys2Proof/Config.lean ====
section
/-! DEFINITION. What one machine is built with, and the free value: the open parameters (1), (2) and (3) of 00 R5.
Parameter (4), the schedule, is the list of operations of Machine/External.lean. -/

namespace Sys2Proof

/-- The parameters a machine is built with (R5). State carries one, no operation writes it, and a statement about
every state is a statement about every value of both. [DESIGN CHOICE safe: log 3] -/
structure Config where
  /-- FONT: the 80 bytes that `initialize` copies to addresses 0 to 79 (R21). -/
  font : Vector Byte 80
  /-- LOAD_STORE_INCREMENTS_I: whether FX55 and FX65 add X + 1 to I (R136). -/
  loadStoreIncrementsI : Bool
deriving DecidableEq, Repr

/-- `draw8()`: the byte the n-th CXNN of a machine draws (R123). It has no body: nothing can be proved of its value,
so a claim that passes through a draw holds for every byte. [DESIGN CHOICE safe: log 4] -/
opaque Config.drawByte : Nat → Byte

end Sys2Proof
end

