-- ==== Sys2Proof/Machine/State.lean ====
section
/-! DEFINITION. The state of the block (10 R10): the spec's eleven elements as plain data, three fields of the model's
own, the closed lists of faults and refusals, and reset (10 R27). -/

namespace Sys2Proof.Machine

/-- MEM (R19) as the cells that differ from the reset content, by rising address; `Memory.wf` in Ops.lean. -/
abbrev Memory := List Host.Cell

/-- PIX (R22): 32 rows from the top, each of 64 cells from the left; true is on. -/
abbrev Display := Vector (Vector Bool 64) 32

/-- The three fatal errors (R170). -/
inductive FatalError where
  /-- R173 -/
  | stackOverflowError
  /-- R174 -/
  | stackUnderflowError
  /-- R175 -/
  | memoryBoundsError
deriving DecidableEq, Repr

/-- RUN (R24). -/
inductive RunState where
  /-- The next step fetches. -/
  | running
  /-- An FX0A waits; the key's number goes to register x. -/
  | waitingForKey (x : Reg)
  /-- The fatal error e has occurred. -/
  | halted (e : FatalError)
deriving DecidableEq, Repr

/-- The status of a step (R84). -/
inductive Status where
  | ok
  /-- The fetched word was unmatched (R171). -/
  | opcodeError
  | fatal (e : FatalError)
deriving DecidableEq, Repr

/-- What `step()` returns (R84). -/
structure StepResult where
  status : Status
  displayChanged : Bool
deriving DecidableEq, Repr

/-- What stops the model with no next state: nothing. Every error of R170 has the effect its rule gives it and is a
next state; a fatal one is RUN = Halted(e). [DEDUCED safe: log 6] -/
inductive Fault where
deriving DecidableEq, Repr

/-- What the model turns away by name. -/
inductive Refusal where
  /-- Raised by an arm of exec whose instruction has no meaning yet; no arm is left that does. Safe. -/
  | notModelled (mnemonic : String)
  /-- Raised by `Session.operate` for a `load_program` that is not between `initialize` and the first `step`, or that
  follows a successful one: the spec gives the host no such move (R202). Safe. [DESIGN CHOICE safe: log 11] -/
  | loadOutOfOrder
deriving DecidableEq, Repr

/-- The complete state (R10) and, after it, the model's own three fields. -/
structure State where
  /-- MEM (R19). -/
  mem : Memory
  /-- V0 to VF (R11). -/
  v : Vector Byte 16
  /-- I (R13). -/
  i : Word
  /-- PC (R14). -/
  pc : Word
  /-- SP, the number of stack entries in use (R16). -/
  sp : Fin 17
  /-- STACK (R16). -/
  stack : Vector Word 16
  /-- DT (R18). -/
  dt : Byte
  /-- ST (R18). -/
  st : Byte
  /-- PIX (R22). -/
  pix : Display
  /-- KEY (R23); true is pressed. -/
  key : Vector Bool 16
  /-- RUN (R24). -/
  run : RunState
  /-- What the machine was built with (R5). [DESIGN CHOICE safe: log 3] -/
  config : Config
  /-- How many bytes CXNN has drawn; the next draw is `Config.drawByte draws`. [DESIGN CHOICE safe: log 4] -/
  draws : Nat
  /-- The output of the latest `step()`, none before the first; nothing reads it (R84). [DESIGN CHOICE safe: log 5] -/
  result : Option StepResult
deriving DecidableEq, Repr

/-- The reset state of a machine built with `cfg` (R27): font in place and zero elsewhere, which is memory with nothing
listed; PC = 0x200; everything else 0, off or Running. -/
def State.resetWith (cfg : Config) : State where
  mem := []
  v := Vector.replicate 16 0
  i := 0
  pc := 0x200
  sp := 0
  stack := Vector.replicate 16 0
  dt := 0
  st := 0
  pix := Vector.replicate 32 (Vector.replicate 64 false)
  key := Vector.replicate 16 false
  run := .running
  config := cfg
  draws := 0
  result := none

/-- The machine right after reset, with the spec's default parameters (R27, R5). -/
def State.reset : State := State.resetWith defaultConfig

end Sys2Proof.Machine
end

