-- ==== Sys2Proof/Machine/Ops.lean ====
section
/-! DEFINITION. The named operations every meaning is written over: memory (20 R40 to R44), registers, PC, the call stack
(10 R16), the display (10 R22, 44 R147), the end of an instruction and taking a fatal error (60 R172). -/

namespace Sys2Proof.Machine

/-- What an instruction, or a step, answers. -/
abbrev Answer := Host.Outcome State Fault Refusal

/-! ### Memory -/

/-- MEM has 4096 cells, addresses 0 to 4095 (R4). -/
def memSize : Nat := 4096

/-- What an unlisted address reads as: the reset content (R27), FONT below 80 and 0 from there on.
[DEDUCED safe: log 13] -/
def unlistedByte (font : Vector Byte 80) (a : Nat) : Byte :=
  if h : a < 80 then font[a] else 0

/-- MEM[a]. -/
def Memory.read (font : Vector Byte 80) : Memory → Nat → Byte
  | [], a => unlistedByte font a
  | (b, w) :: m, a => if a = b then w else Memory.read font m a

/-- MEM[a] <- v, keeping the canonical form: a cell that gets its reset content back is no longer listed. -/
def Memory.write (font : Vector Byte 80) : Memory → Nat → Byte → Memory
  | [], a, v => if v = unlistedByte font a then [] else [(a, v)]
  | (b, w) :: m, a, v =>
    if a < b then
      if v = unlistedByte font a then (b, w) :: m else (a, v) :: (b, w) :: m
    else if a = b then
      if v = unlistedByte font a then m else (a, v) :: m
    else (b, w) :: Memory.write font m a v

/-- Every listed address is at least `lo` and inside MEM, addresses rise strictly, and no listed byte is the reset
content. -/
def Memory.wfFrom (font : Vector Byte 80) : Nat → Memory → Bool
  | _, [] => true
  | lo, (a, v) :: m =>
    decide (lo ≤ a) && decide (a < memSize) && decide (v ≠ unlistedByte font a) && Memory.wfFrom font (a + 1) m

/-- The canonical form of MEM. -/
def Memory.wf (font : Vector Byte 80) (m : Memory) : Bool := Memory.wfFrom font 0 m

/-- The bytes from `a` on, `n` of them, by rising address (R45). -/
def Memory.readBytes (font : Vector Byte 80) (m : Memory) (a : Nat) : Nat → List Byte
  | 0 => []
  | n + 1 => Memory.read font m a :: Memory.readBytes font m (a + 1) n

/-- Byte writes from `a` on, by rising address (R45). -/
def Memory.writeBytes (font : Vector Byte 80) (m : Memory) (a : Nat) : List Byte → Memory
  | [] => m
  | v :: vs => Memory.writeBytes font (Memory.write font m a v) (a + 1) vs

/-- The bounds check of R41 on `n` consecutive addresses from `a`: an access of zero bytes uses no address. -/
def inBounds (a n : Nat) : Bool := n == 0 || decide (a + n - 1 ≤ 4095)

/-- MEM[a] of a state, for an address that has been checked. -/
def State.byteAt (s : State) (a : Nat) : Byte := Memory.read s.config.font s.mem a

/-- `MemRead(a, 1)` for each of the n addresses from `a`, all checked before any is read; none is the
MemoryBoundsError (R41, R42). -/
def State.readBytes (s : State) (a n : Nat) : Option (List Byte) :=
  if inBounds a n then some (Memory.readBytes s.config.font s.mem a n) else none

/-- `MemRead(a, 2)`: the byte at the lower address in bits 15 to 8 (R42, R44). -/
def State.readWord (s : State) (a : Nat) : Option Word :=
  if inBounds a 2 then some (s.byteAt a ++ s.byteAt (a + 1)) else none

/-- `MemWrite(a + j, 1, bytes[j])` for every j, all addresses checked before any byte is written; none is the
MemoryBoundsError (R41, R43). -/
def State.writeBytes (s : State) (a : Nat) (bytes : List Byte) : Option State :=
  if inBounds a bytes.length then
    some { s with mem := Memory.writeBytes s.config.font s.mem a bytes }
  else none

/-! ### Registers, timers and PC -/

/-- V[x] (R11): no register is hardwired. -/
def State.readV (s : State) (x : Reg) : Byte := s.v[x]

/-- V[x] <- b. -/
def State.writeV (s : State) (x : Reg) (b : Byte) : State := { s with v := s.v.set x b }

/-- I <- a. -/
def State.setI (s : State) (a : Word) : State := { s with i := a }

/-- PC <- a. -/
def State.setPc (s : State) (a : Word) : State := { s with pc := a }

/-- The default advance, PC <- PC + 2 (R15, R83). [DESIGN CHOICE unsafe at PC ≥ 0xFFFE, which no run reaches: log 7] -/
def State.advance (s : State) : State := s.setPc (s.pc + 2)

/-- PC <- PC + (c ? 4 : 2) (R104). -/
def State.skipIf (s : State) (c : Bool) : State := s.setPc (s.pc + if c then 4 else 2)

/-- DT <- b (R18). -/
def State.setDt (s : State) (b : Byte) : State := { s with dt := b }

/-- ST <- b (R18). -/
def State.setSt (s : State) (b : Byte) : State := { s with st := b }

/-- RUN <- r (R24). -/
def State.setRun (s : State) (r : RunState) : State := { s with run := r }

/-- The output of this step is r (R84). -/
def State.report (s : State) (r : StepResult) : State := { s with result := some r }

/-! ### The call stack -/

/-- STACK[SP] <- a; SP <- SP + 1, or none when SP = 16 (R97). -/
def State.push (s : State) (a : Word) : Option State :=
  if h : s.sp.val < 16 then
    some { s with stack := s.stack.set s.sp.val a, sp := ⟨s.sp.val + 1, by omega⟩ }
  else none

/-- SP <- SP - 1, with the entry at the new SP, or none when SP = 0 (R95). The entry keeps its value (R17). -/
def State.pop (s : State) : Option (Word × State) :=
  if h : 0 < s.sp.val then
    some (s.stack[s.sp.val - 1], { s with sp := ⟨s.sp.val - 1, by omega⟩ })
  else none

/-! ### The display -/

/-- The blank display: every cell off. -/
def blankDisplay : Display := Vector.replicate 32 (Vector.replicate 64 false)

/-- PIX[x][y] (R22). -/
def Display.cell (d : Display) (x : Fin 64) (y : Fin 32) : Bool := d[y][x]

/-- PIX[x][y] <- PIX[x][y] ^ 1. -/
def Display.toggle (d : Display) (x : Fin 64) (y : Fin 32) : Display := d.set y (d[y].set x (!d[y][x]))

/-- PIX <- d. -/
def State.setPix (s : State) (d : Display) : State := { s with pix := d }

/-! ### The end of an instruction, and taking a fatal error -/

/-- The instruction completes: status Ok (R82, R84), with `display_changed` (R85). -/
def complete (displayChanged : Bool) (s : State) : Answer := .next (s.report ⟨.ok, displayChanged⟩)

/-- `raise E` (R172): RUN <- Halted(E), nothing else of the block changes, PC included, and the step returns
(Fatal(E), false). It is applied to the pre-instruction state, so a fatal error is precise (R177). -/
def raise (e : FatalError) (s : State) : Answer := .next ((s.setRun (.halted e)).report ⟨.fatal e, false⟩)

end Sys2Proof.Machine
end

