-- ==== Sys2Proof/Machine/Operands.lean ====
section
/-! DEFINITION. Operand forms: immediates widened with zeros (30 R64), the one addressing mode I + k (43 R137), the key
index (46 R164), decimal digits (43 R133) and sprite geometry (44 R147). -/

namespace Sys2Proof.Machine

/-- NNN as a 16-bit address, zero-extended (R64). -/
def addressOf (nnn : Imm12) : Word := nnn.zeroExtend 16

/-- I + k, exact: the address of byte k of a data access (R137). -/
def State.dataAddress (s : State) (k : Nat) : Nat := s.i.toNat + k

/-- NNN + V[0] as a 16-bit sum of zero-extended numbers (R102). -/
def State.indexedTarget (s : State) (nnn : Imm12) : Word := addressOf nnn + (s.readV 0).zeroExtend 16

/-- V[X][3:0], the key EX9E and EXA1 test (R164, the spec's decision D9). -/
def State.keyIndex (s : State) (x : Reg) : Reg := ((s.readV x).extractLsb' 0 4).toFin

/-- KEY[k] (R23). -/
def State.keyPressed (s : State) (k : Reg) : Bool := s.key[k]

/-- The least k with KEY[k] = 1, if any key is pressed (R166, R167). -/
def State.lowestKey (s : State) : Option Reg := (List.finRange 16).find? fun k => s.keyPressed k

/-- A number 0 to 15 as a byte (R166). -/
def byteOfReg (k : Reg) : Byte := BitVec.ofNat 8 k.val

/-- Hundreds, tens and units, each a binary number of its own byte (R133). -/
def bcdDigits (b : Byte) : List Byte :=
  [BitVec.ofNat 8 (b.toNat / 100), BitVec.ofNat 8 (b.toNat / 10 % 10), BitVec.ofNat 8 (b.toNat % 10)]

/-- V[0] to V[X], the X + 1 bytes FX55 stores (R134). -/
def State.firstRegs (s : State) (x : Reg) : List Byte := s.v.toList.take (x.val + 1)

/-- V[j] <- bytes[j] for every j that bytes has; the other registers keep their value (R135). -/
def State.loadRegs (s : State) (bytes : List Byte) : State :=
  { s with v := Vector.ofFn fun j : Fin 16 => bytes.getD j.val s.v[j] }

/-- I after FX55 or FX65 (R136): I + X + 1 by the policy, or unchanged. -/
def State.stepI (s : State) (x : Reg) : State :=
  s.setI (s.i + BitVec.ofNat 16 (bif s.config.loadStoreIncrementsI then x.val + 1 else 0))

/-- The column of sprite column c, wrapping at the right edge (R147). -/
def spriteColumn (x0 : Byte) (c : Nat) : Fin 64 := ⟨(x0.toNat + c) % 64, Nat.mod_lt _ (by decide)⟩

/-- The row of sprite row r, wrapping at the bottom (R147). -/
def spriteRow (y0 : Byte) (r : Nat) : Fin 32 := ⟨(y0.toNat + r) % 32, Nat.mod_lt _ (by decide)⟩

/-- Whether sprite column c of a row byte is set: bit 7 is the leftmost (R147). -/
def spriteBit (row : Byte) (c : Nat) : Bool := row.getLsbD (7 - c)

end Sys2Proof.Machine
end

