-- ==== Sys2Proof/Machine/Flags.lean ====
section
/-! DEFINITION. Every flag the block computes (10 R12, 42 R110, R111): the flag of each flag-writing instruction and the
order in which flag and result are written. -/

namespace Sys2Proof.Machine

/-- A flag as the byte VF takes, 1 or 0 (R12). -/
def flagByte (c : Bool) : Byte := if c then 1 else 0

/-- Carry out of a + b: the exact sum exceeds 255 (R118). -/
def carryOut (a b : Byte) : Bool := decide (a.toNat + b.toNat > 255)

/-- No borrow out of a - b: the minuend is at least the subtrahend (R119, R121). -/
def noBorrow (a b : Byte) : Bool := decide (a.toNat ≥ b.toNat)

/-- The bit a right shift drops, bit 0 (R120). -/
def shiftedOutRight (a : Byte) : Bool := a.getLsbD 0

/-- The bit a left shift drops, bit 7 (R122). -/
def shiftedOutLeft (a : Byte) : Bool := a.getLsbD 7

/-- V[F] <- flag, then V[X] <- result: with X = F the result is what VF keeps (R111, the spec's decision D7). Flag and
result are computed from the operands before either write. -/
def State.writeFlagged (s : State) (x : Reg) (flag : Bool) (value : Byte) : State :=
  (s.writeV regF (flagByte flag)).writeV x value

end Sys2Proof.Machine
end

