-- ==== Sys2Proof/Machine/Alu.lean ====
section
/-! DEFINITION. Register load, arithmetic, logic, shift and random (42). -/

namespace Sys2Proof.Machine

/-- 6XNN (R112). -/
def execLdVxNn (x : Reg) (nn : Byte) (s : State) : Answer := complete false (s.writeV x nn).advance

/-- 7XNN (R113): modulo 256, no flag. -/
def execAddVxNn (x : Reg) (nn : Byte) (s : State) : Answer := complete false (s.writeV x (s.readV x + nn)).advance

/-- 8XY0 (R114). -/
def execLdVxVy (x y : Reg) (s : State) : Answer := complete false (s.writeV x (s.readV y)).advance

/-- 8XY1 (R115). -/
def execOrVxVy (x y : Reg) (s : State) : Answer := complete false (s.writeV x (s.readV x ||| s.readV y)).advance

/-- 8XY2 (R116). -/
def execAndVxVy (x y : Reg) (s : State) : Answer := complete false (s.writeV x (s.readV x &&& s.readV y)).advance

/-- 8XY3 (R117). -/
def execXorVxVy (x y : Reg) (s : State) : Answer := complete false (s.writeV x (s.readV x ^^^ s.readV y)).advance

/-- 8XY4 (R118). -/
def execAddVxVy (x y : Reg) (s : State) : Answer :=
  complete false (s.writeFlagged x (carryOut (s.readV x) (s.readV y)) (s.readV x + s.readV y)).advance

/-- 8XY5 (R119): V[X] is the minuend. -/
def execSubVxVy (x y : Reg) (s : State) : Answer :=
  complete false (s.writeFlagged x (noBorrow (s.readV x) (s.readV y)) (s.readV x - s.readV y)).advance

/-- 8XY6 (R120): V[X] is shifted; Y is ignored. -/
def execShrVx (x _y : Reg) (s : State) : Answer :=
  complete false (s.writeFlagged x (shiftedOutRight (s.readV x)) (s.readV x >>> 1)).advance

/-- 8XY7 (R121): V[Y] is the minuend. -/
def execSubnVxVy (x y : Reg) (s : State) : Answer :=
  complete false (s.writeFlagged x (noBorrow (s.readV y) (s.readV x)) (s.readV y - s.readV x)).advance

/-- 8XYE (R122): V[X] is shifted; Y is ignored. -/
def execShlVx (x _y : Reg) (s : State) : Answer :=
  complete false (s.writeFlagged x (shiftedOutLeft (s.readV x)) (s.readV x <<< 1)).advance

/-- `draw8()` (R123): the next free byte, and the counter moves on so that the next draw is another.
[DESIGN CHOICE safe: log 4] -/
def State.drawByte (s : State) : Byte × State := (Config.drawByte s.draws, { s with draws := s.draws + 1 })

/-- CXNN (R123). -/
def execRndVxNn (x : Reg) (nn : Byte) (s : State) : Answer :=
  complete false (s.drawByte.2.writeV x (s.drawByte.1 &&& nn)).advance

end Sys2Proof.Machine
end

