-- ==== Sys2Proof/Machine/Control.lean ====
section
/-! DEFINITION. Control transfer (41): RET, JP, CALL, the four register skips, JP V0. -/

namespace Sys2Proof.Machine

/-- 00EE (R95): the entry is the address of the call, so the return goes to entry + 2.
[DESIGN CHOICE unsafe at an entry ≥ 0xFFFE, which no run reaches: log 7] -/
def execRet (s : State) : Answer :=
  match s.pop with
  | some (a, t) => complete false (t.setPc (a + 2))
  | none => raise .stackUnderflowError s

/-- 1NNN (R96). -/
def execJpNnn (nnn : Imm12) (s : State) : Answer := complete false (s.setPc (addressOf nnn))

/-- 2NNN (R97): the address of the call itself is pushed. -/
def execCallNnn (nnn : Imm12) (s : State) : Answer :=
  match s.push s.pc with
  | some t => complete false (t.setPc (addressOf nnn))
  | none => raise .stackOverflowError s

/-- 3XNN (R98). -/
def execSeVxNn (x : Reg) (nn : Byte) (s : State) : Answer := complete false (s.skipIf (s.readV x == nn))

/-- 4XNN (R99). -/
def execSneVxNn (x : Reg) (nn : Byte) (s : State) : Answer := complete false (s.skipIf (s.readV x != nn))

/-- 5XY0 (R100). -/
def execSeVxVy (x y : Reg) (s : State) : Answer := complete false (s.skipIf (s.readV x == s.readV y))

/-- 9XY0 (R101). -/
def execSneVxVy (x y : Reg) (s : State) : Answer := complete false (s.skipIf (s.readV x != s.readV y))

/-- BNNN (R102): the register is always V0. -/
def execJpV0Nnn (nnn : Imm12) (s : State) : Answer := complete false (s.setPc (s.indexedTarget nnn))

end Sys2Proof.Machine
end

