-- ==== Sys2Proof/Machine/Display.lean ====
section
/-! DEFINITION. The display instructions (44). -/

namespace Sys2Proof.Machine

/-- 00E0 (R145): every cell off; `display_changed` whatever was there (R85). -/
def execCls (s : State) : Answer := complete true (s.setPix blankDisplay).advance

/-- The cells the set bits of one sprite row fall on, left to right (R146, inner loop). -/
def rowCells (x0 y0 row : Byte) (r : Nat) : List (Fin 64 × Fin 32) :=
  ((List.range 8).filter (spriteBit row)).map fun c => (spriteColumn x0 c, spriteRow y0 r)

/-- The cells a sprite toggles, top row first, from row number r on (R146, outer loop). -/
def spriteCells (x0 y0 : Byte) : List Byte → Nat → List (Fin 64 × Fin 32)
  | [], _ => []
  | row :: rows, r => rowCells x0 y0 row r ++ spriteCells x0 y0 rows (r + 1)

/-- Toggles the cells in order; the flag records that an on cell was turned off (R146). -/
def drawCells : List (Fin 64 × Fin 32) → Display → Bool → Display × Bool
  | [], d, collision => (d, collision)
  | (x, y) :: cells, d, collision => drawCells cells (d.toggle x y) (collision || d.cell x y)

/-- DXYN (R146): coordinates and sprite bytes are read before anything is written, VF once at the end (the spec's
decision D8). N = 0 reads no byte and cannot raise. -/
def execDrwVxVyN (x y : Reg) (n : Nat) (s : State) : Answer :=
  match s.readBytes (s.dataAddress 0) n with
  | some rows =>
    let drawn := drawCells (spriteCells (s.readV x) (s.readV y) rows 0) s.pix false
    complete true ((s.setPix drawn.1).writeV regF (flagByte drawn.2)).advance
  | none => raise .memoryBoundsError s

end Sys2Proof.Machine
end

