-- ==== Sys2Proof/Machine/IndexMemory.lean ====
section
/-! DEFINITION. Address register, load and store (43). -/

namespace Sys2Proof.Machine

/-- ANNN (R130). -/
def execLdINnn (nnn : Imm12) (s : State) : Answer := complete false (s.setI (addressOf nnn)).advance

/-- FX1E (R131): the sum is reduced modulo 4096; VF is not written. -/
def execAddIVx (x : Reg) (s : State) : Answer :=
  complete false (s.setI (BitVec.ofNat 16 ((s.i.toNat + (s.readV x).toNat) % 4096))).advance

/-- FX29 (R132): V[X] is not masked. -/
def execLdFVx (x : Reg) (s : State) : Answer :=
  complete false (s.setI (BitVec.ofNat 16 ((s.readV x).toNat * 5))).advance

/-- FX33 (R133). -/
def execLdBVx (x : Reg) (s : State) : Answer :=
  match s.writeBytes (s.dataAddress 0) (bcdDigits (s.readV x)) with
  | some t => complete false t.advance
  | none => raise .memoryBoundsError s

/-- FX55 (R134, R136). -/
def execLdMiVx (x : Reg) (s : State) : Answer :=
  match s.writeBytes (s.dataAddress 0) (s.firstRegs x) with
  | some t => complete false (t.stepI x).advance
  | none => raise .memoryBoundsError s

/-- FX65 (R135, R136). -/
def execLdVxMi (x : Reg) (s : State) : Answer :=
  match s.readBytes (s.dataAddress 0) (x.val + 1) with
  | some bytes => complete false ((s.loadRegs bytes).stepI x).advance
  | none => raise .memoryBoundsError s

end Sys2Proof.Machine
end

