-- ==== Sys2Proof/Machine/Keypad.lean ====
section
/-! DEFINITION. The keypad instructions and the key-wait poll (46). -/

namespace Sys2Proof.Machine

/-- EX9E (R162). -/
def execSkpVx (x : Reg) (s : State) : Answer := complete false (s.skipIf (s.keyPressed (s.keyIndex x)))

/-- EXA1 (R163). -/
def execSknpVx (x : Reg) (s : State) : Answer := complete false (s.skipIf (!s.keyPressed (s.keyIndex x)))

/-- FX0A (R165): the step that fetches it only enters the wait; PC stays and no key is looked at (the spec's decision
D10). -/
def execLdVxK (x : Reg) (s : State) : Answer := complete false (s.setRun (.waitingForKey x))

/-- The poll of a step with RUN = WaitingForKey(x) (R166): no fetch, no bounds check; with no key pressed nothing
changes. -/
def pollKey (x : Reg) (s : State) : Answer :=
  match s.lowestKey with
  | some k => complete false (((s.writeV x (byteOfReg k)).advance).setRun .running)
  | none => complete false s

end Sys2Proof.Machine
end

