-- ==== Sys2Proof/Machine/Timers.lean ====
section
/-! DEFINITION. The timer instructions (45). -/

namespace Sys2Proof.Machine

/-- FX07 (R155). -/
def execLdVxDt (x : Reg) (s : State) : Answer := complete false (s.writeV x s.dt).advance

/-- FX15 (R156). -/
def execLdDtVx (x : Reg) (s : State) : Answer := complete false (s.setDt (s.readV x)).advance

/-- FX18 (R157). -/
def execLdStVx (x : Reg) (s : State) : Answer := complete false (s.setSt (s.readV x)).advance

end Sys2Proof.Machine
end

