-- ==== Sys2Proof/Machine/Cycle.lean ====
section
/-! DEFINITION. The step cycle (40): the three arms of `step()`, the fetch, the unmatched word, and placing a word where
the next fetch reads. -/

namespace Sys2Proof.Machine

/-- The fetch (R81): the word at PC and PC + 1, none when PC + 1 > 4095. It changes nothing. -/
def fetchWord (s : State) : Option Word := s.readWord s.pc.toNat

/-- An unmatched word (R171): PC + 2, nothing else; status OpcodeError. -/
def execUnmatched (s : State) : Answer := .next (s.advance.report ⟨.opcodeError, false⟩)

/-- A step in Halted(e) (R86, the spec's decision D2): no change, Fatal(e) again. -/
def haltedStep (e : FatalError) (s : State) : Answer := .next (s.report ⟨.fatal e, false⟩)

/-- The running arm (R80, R81, R82): fetch, decode, execute. -/
def runningStep (s : State) : Answer :=
  match fetchWord s with
  | none => raise .memoryBoundsError s
  | some op =>
    match decodeWord op with
    | some i => exec i s
    | none => execUnmatched s

/-- `step()` (R80): exactly one of the three arms. -/
def cycle (s : State) : Answer :=
  match s.run with
  | .halted e => haltedStep e s
  | .waitingForKey x => pollKey x s
  | .running => runningStep s

/-- Where the next fetch reads: PC, or 0x200 for a state whose PC cannot be fetched from.
[DESIGN CHOICE safe: log 12] -/
def fetchablePc (s : State) : Word := if inBounds s.pc.toNat 2 then s.pc else 0x200

/-- Stores a word where the very next step fetches it, high byte first (R44), with RUN = Running so that it does fetch.
[DESIGN CHOICE safe: log 12] -/
def placeFetchWord (s : State) (w : Nat) : State :=
  { s with
    run := .running
    pc := fetchablePc s
    mem := Memory.writeBytes s.config.font s.mem (fetchablePc s).toNat [BitVec.ofNat 8 (w / 256), BitVec.ofNat 8 w] }

end Sys2Proof.Machine
end

