-- ==== Sys2Proof/Machine/Step.lean ====
section
/-! DEFINITION. One step of the core (40 R80), and a state whose next step runs a given word. -/

namespace Sys2Proof.Machine

/-- One `step()` operation. -/
def step (s : State) : Host.Outcome State Fault Refusal := cycle s

/-- s with the word w (its low nbits bits) where step fetches its next instruction. [DESIGN CHOICE safe: log 12] -/
def State.withFetchWord (s : State) (nbits w : Nat) : State := placeFetchWord s (w % 2 ^ nbits)

end Sys2Proof.Machine
end

