-- ==== Sys2Proof/Machine/External.lean ====
section
/-! DEFINITION. The other agents (00 R7, 60 R186): the timer tick, the host's operations, the boot protocol (70 R202,
R204), and a run as a list of operations in one total order (20 R51, 60 R188). -/

namespace Sys2Proof.Machine

/-- `tick_timers()` (R184): each timer down by one, floored at 0, in every run state. -/
def tickTimers (s : State) : State :=
  (s.setDt (if s.dt = 0 then 0 else s.dt - 1)).setSt (if s.st = 0 then 0 else s.st - 1)

/-- `set_key(index, pressed)` (R187), for an index 0 to 15. -/
def setKey (index : Reg) (pressed : Bool) (s : State) : State := { s with key := s.key.set index pressed }

/-- `framebuffer()` (R189): the 2048 cells in row-major order, cell 64·y + x for column x of row y (R22). -/
def framebuffer (s : State) : Vector Bool 2048 :=
  Vector.ofFn fun k : Fin 2048 => s.pix.cell ⟨k.val % 64, Nat.mod_lt _ (by decide)⟩ ⟨k.val / 64, by omega⟩

/-- `is_sound_active()` (R190). -/
def isSoundActive (s : State) : Bool := decide (0 < s.st.toNat)

/-- `initialize()` (R200): the reset state of the same machine, whatever came before. The draw counter goes on, so that
no draw is repeated. [DESIGN CHOICE safe: log 4] -/
def initializeState (s : State) : State := { State.resetWith s.config with draws := s.draws }

/-- A program of 1 to 3584 bytes is accepted (R176, R201). -/
def loadAccepts (bytes : List Byte) : Bool := decide (0 < bytes.length) && decide (bytes.length ≤ 3584)

/-- `load_program(bytes)` (R201): the bytes from 0x200 on, or none for LoadError and no change. -/
def loadProgram (bytes : List Byte) (s : State) : Option State :=
  if loadAccepts bytes then
    some { s with mem := Memory.writeBytes s.config.font s.mem 0x200 bytes }
  else none

/-- One operation of one agent (R7, R186). The type of `setKey` leaves out an index above 15 (R187). -/
inductive Operation where
  /-- `initialize()` -/
  | reset
  | loadProgram (bytes : List Byte)
  | step
  | tickTimers
  | setKey (index : Reg) (pressed : Bool)
  | framebuffer
  | isSoundActive
deriving DecidableEq, Repr

/-- What an operation gives back (R186). -/
inductive Reply where
  | done
  | loaded
  | loadError
  | stepped (result : Option StepResult)
  | frame (cells : Vector Bool 2048)
  | sound (active : Bool)
deriving DecidableEq, Repr

/-- Where the host stands in the boot protocol (R202, R204). -/
inductive Phase where
  /-- After `initialize`: a load or a first step may come. -/
  | initialized
  /-- A load has succeeded and no step has run. -/
  | loaded
  /-- A step has run. -/
  | stepped
deriving DecidableEq, Repr

/-- The block and the host's place in the protocol; the place is no state of the block.
[DESIGN CHOICE safe: log 11] -/
structure Session where
  state : State
  phase : Phase
deriving DecidableEq, Repr

/-- A session after its first `initialize()`: nothing has a meaning before it (R200). -/
def Session.start (cfg : Config) : Session := ⟨State.resetWith cfg, .initialized⟩

/-- One `load_program` of the host (R201, R202): accepted once, between `initialize` and the first `step`; a failed load
may be retried; out of order it is refused. -/
def Session.load (bytes : List Byte) (z : Session) : Host.Outcome (Session × Reply) Fault Refusal :=
  match z.phase with
  | .initialized =>
    match loadProgram bytes z.state with
    | some t => .next (⟨t, .loaded⟩, .loaded)
    | none => .next (z, .loadError)
  | .loaded => .refused .loadOutOfOrder
  | .stepped => .refused .loadOutOfOrder

/-- One `step` of the host, with the core's StepResult as the reply (R84). -/
def Session.stepCore (z : Session) : Host.Outcome (Session × Reply) Fault Refusal :=
  match step z.state with
  | .next t => .next (⟨t, .stepped⟩, .stepped t.result)
  | .fault f => .fault f
  | .refused r => .refused r

/-- One operation, atomic (R7). -/
def Session.operate (op : Operation) (z : Session) : Host.Outcome (Session × Reply) Fault Refusal :=
  match op with
  | .reset => .next (⟨initializeState z.state, .initialized⟩, .done)
  | .loadProgram bytes => Session.load bytes z
  | .step => Session.stepCore z
  | .tickTimers => .next ({ z with state := Machine.tickTimers z.state }, .done)
  | .setKey k b => .next ({ z with state := Machine.setKey k b z.state }, .done)
  | .framebuffer => .next (z, .frame (Machine.framebuffer z.state))
  | .isSoundActive => .next (z, .sound (Machine.isSoundActive z.state))

/-- A schedule (R188): the operations in their total order; a refused one ends it. -/
def Session.runOps : List Operation → Session → Host.Outcome Session Fault Refusal
  | [], z => .next z
  | op :: ops, z =>
    match Session.operate op z with
    | .next (t, _) => Session.runOps ops t
    | .fault f => .fault f
    | .refused r => .refused r

end Sys2Proof.Machine
end

