-- ==== Sys2Proof/Safety.lean ====
section
/-! DEFINITION. The terms claims are stated in: the invariant of reachable states (10 R28), the parts of the state and
which of them an instruction may write (00 R9), the conditions under which a fatal error is raised (60 R173 to R175), and
what a sprite covers (44 R147). -/

namespace Sys2Proof.Machine

/-! ### The invariant of reachable states -/

/-- MEM is in its canonical form; PC ≤ 0x10FE and I ≤ 0x1000 (R28); a live stack entry is the address of a 2NNN that was
fetched, and a waiting PC that of an FX0A that was fetched, so both are at most 0xFFE (R81, R97, R14). -/
structure State.Inv (s : State) : Prop where
  memory : Memory.wf s.config.font s.mem = true
  pcBound : s.pc.toNat ≤ 0x10FE
  iBound : s.i.toNat ≤ 0x1000
  liveEntries : ∀ k : Reg, k.val < s.sp.val → s.stack[k].toNat ≤ 0xFFE
  waitingPc : ∀ x : Reg, s.run = .waitingForKey x → s.pc.toNat ≤ 0xFFE

/-- A safe run has raised no fatal error (R86). -/
def State.notHalted (s : State) : Prop := ∀ e, s.run ≠ .halted e

/-! ### The parts of the state and the frame rule -/

/-- One part of the state: a register, a cell, an entry, a key. -/
inductive Part where
  | v (r : Reg)
  | i
  | pc
  | sp
  | stack (k : Reg)
  | dt
  | st
  | pix (x : Fin 64) (y : Fin 32)
  | key (k : Reg)
  | run
  | mem (a : Nat)
  | config
  | draws
deriving DecidableEq, Repr

/-- The part p has the same value in both states; a memory cell through the read of one byte. -/
def samePart (s t : State) : Part → Prop
  | .v r => t.readV r = s.readV r
  | .i => t.i = s.i
  | .pc => t.pc = s.pc
  | .sp => t.sp = s.sp
  | .stack k => t.stack[k] = s.stack[k]
  | .dt => t.dt = s.dt
  | .st => t.st = s.st
  | .pix x y => t.pix.cell x y = s.pix.cell x y
  | .key k => t.key[k] = s.key[k]
  | .run => t.run = s.run
  | .mem a => t.byteAt a = s.byteAt a
  | .config => t.config = s.config
  | .draws => t.draws = s.draws

/-- The registers an instruction writes (the table of 10 section 1; R12 for the flag). -/
def writesReg : Instr → Reg → Prop
  | .ldVxNn x _, r | .addVxNn x _, r | .rndVxNn x _, r => r = x
  | .ldVxVy x _, r | .orVxVy x _, r | .andVxVy x _, r | .xorVxVy x _, r => r = x
  | .addVxVy x _, r | .subVxVy x _, r | .shrVx x _, r | .subnVxVy x _, r | .shlVx x _, r => r = x ∨ r = regF
  | .drwVxVyN _ _ _, r => r = regF
  | .ldVxDt x, r => r = x
  | .ldVxMi x, r => r ≤ x
  | _, _ => False

/-- The addresses an instruction stores to: the data addresses of its bytes (R133, R134, R137). -/
def storesTo (i : Instr) (s : State) (a : Nat) : Prop :=
  match i with
  | .ldBVx _ => s.dataAddress 0 ≤ a ∧ a ≤ s.dataAddress 2
  | .ldMiVx x => s.dataAddress 0 ≤ a ∧ a ≤ s.dataAddress x.val
  | _ => False

/-- Whether an instruction executed from s may change the part p: the "written by" column of 10 section 1, and RUN for
FX0A and for the instructions that can raise (R170). -/
def mayWrite (i : Instr) (s : State) : Part → Prop
  | .v r => writesReg i r
  | .i =>
    match i with
    | .ldINnn _ | .addIVx _ | .ldFVx _ => True
    | .ldMiVx _ | .ldVxMi _ => s.config.loadStoreIncrementsI = true
    | _ => False
  | .pc =>
    match i with
    | .ldVxK _ => False
    | _ => True
  | .sp =>
    match i with
    | .callNnn _ | .ret => True
    | _ => False
  | .stack k =>
    match i with
    | .callNnn _ => k.val = s.sp.val
    | _ => False
  | .dt =>
    match i with
    | .ldDtVx _ => True
    | _ => False
  | .st =>
    match i with
    | .ldStVx _ => True
    | _ => False
  | .pix _ _ =>
    match i with
    | .cls | .drwVxVyN _ _ _ => True
    | _ => False
  | .key _ => False
  | .run =>
    match i with
    | .ldVxK _ | .callNnn _ | .ret | .drwVxVyN _ _ _ | .ldBVx _ | .ldMiVx _ | .ldVxMi _ => True
    | _ => False
  | .mem a => storesTo i s a
  | .config => False
  | .draws =>
    match i with
    | .rndVxNn _ _ => True
    | _ => False

/-- exec of i from s answers a next state t with status Ok, every part outside `changes` as it was, and `post t`: what an
instruction does and its frame (R9, R82). -/
def completes (i : Instr) (s : State) (displayChanged : Bool) (changes : Part → Prop) (post : State → Prop) : Prop :=
  ∃ t, exec i s = .next t ∧ t.result = some ⟨.ok, displayChanged⟩ ∧ (∀ p, ¬ changes p → samePart s t p) ∧ post t

/-- The state a fatal error leaves: RUN = Halted(e), the result (Fatal(e), false), nothing else (R172). -/
def haltedWith (e : FatalError) (s : State) : State := { s with run := .halted e, result := some ⟨.fatal e, false⟩ }

/-- exec of i from s raises e. -/
def raises (i : Instr) (s : State) (e : FatalError) : Prop := exec i s = .next (haltedWith e s)

/-- Instructions executed one after the other. -/
def execAll : List Instr → State → Answer
  | [], s => .next s
  | i :: is, s =>
    match exec i s with
    | .next t => execAll is t
    | .fault f => .fault f
    | .refused r => .refused r

/-! ### When a fatal error is raised -/

/-- The instruction i, executed from s, raises e: the five places of R173, R174 and R175 but the fetch. -/
def raisesIn (i : Instr) (s : State) : FatalError → Prop
  | .stackOverflowError =>
    match i with
    | .callNnn _ => s.sp.val = 16
    | _ => False
  | .stackUnderflowError =>
    match i with
    | .ret => s.sp.val = 0
    | _ => False
  | .memoryBoundsError =>
    match i with
    | .drwVxVyN _ _ n => 1 ≤ n ∧ s.i.toNat + n - 1 > 4095
    | .ldBVx _ => s.i.toNat + 2 > 4095
    | .ldMiVx x | .ldVxMi x => s.i.toNat + x.val > 4095
    | _ => False

/-- The 16-bit word whose high byte stands at address a and whose low byte at a + 1 (R44). -/
def wordAt (s : State) (a : Nat) : Word := BitVec.ofNat 16 ((s.byteAt a).toNat * 256 + (s.byteAt (a + 1)).toNat)

/-- The instruction whose word stands at PC, when it can be fetched and is matched (R81, R82). -/
def instructionAt (s : State) : Option Instr := (fetchWord s).bind decodeWord

/-- The instruction is one of the two display instructions (R85). -/
def isDisplay : Instr → Prop
  | .cls | .drwVxVyN _ _ _ => True
  | _ => False

/-! ### What a sprite covers -/

/-- Cell (x, y) is the image of a set sprite bit of DXYN (R147): row r, 0 ≤ r < n, of the bytes from I on, and column c,
0 ≤ c < 8, bit 7 - c, at ((V[X] + c) mod 64, (V[Y] + r) mod 32). -/
def spriteCovers (s : State) (vx vy : Byte) (n : Nat) (x : Fin 64) (y : Fin 32) : Prop :=
  ∃ r < n, ∃ c < 8, (s.byteAt (s.i.toNat + r)).getLsbD (7 - c) = true ∧
    x.val = (vx.toNat + c) % 64 ∧ y.val = (vy.toNat + r) % 32

end Sys2Proof.Machine
end

