-- ==== Sys2Proof/Certificates/Slice0/Obligations.lean ====
section
/-! DEFINITION. The statements for the provers, in the order encoding, step, errors, invariants and frames, control
flow, arithmetic, memory, display, timers, keypad, host. Each docstring names the rule of spec/ it formalises; where a
clause rests on a choice, it names the decision of 92_eei_decisions.md or the log entry. What a raised fatal error leaves
(RUN = Halted(e), nothing else) is the spec's decisions D2 and D3, wherever a statement speaks of raising (log 16). -/

open Sys2Proof Sys2Proof.Machine

/-! ### Encoding -/

/-- R61 to R64: decoding the word of a well-formed instruction gives the instruction back, every operand at every value.
(That the shifts keep Y as syntax is log 14.) -/
def Obligations.DecodeInvertsEncode : Prop :=
  ∀ i : Instr, i.wf = true → decodeWord (encode i) = some i

/-- R61 to R64: a word that decodes is the word of its instruction, which is well-formed. For 8XY6 and 8XYE this is the
model's choice (log 14): by R68 and R120 a word with any Y is the same instruction, and no bit of the word is dropped only
because the model keeps Y in the syntax. -/
def Obligations.EncodeInvertsDecode : Prop :=
  ∀ (w : Word) (i : Instr), decodeWord w = some i → i.wf = true ∧ encode i = w

/-- 30 section 4 (the spec's decision D16): a word decodes to the row it matches, no two rows match one word, and a word
that matches none of the 34 rows of the opcode map is unmatched. -/
def Obligations.DecoderFollowsTheOpcodeMap : Prop :=
  opcodeMap.length = 34 ∧
  (∀ (w : Word) (i : Instr), decodeWord w = some i → i.row ∈ opcodeMap ∧ i.row.matchesWord w = true) ∧
  (∀ w : Word, decodeWord w = none ↔ ∀ r ∈ opcodeMap, r.matchesWord w = false) ∧
  (∀ w : Word, ∀ r ∈ opcodeMap, ∀ q ∈ opcodeMap, r.matchesWord w = true → q.matchesWord w = true → r = q)

/-- 30 section 5, the six groups (a) to (f) of unmatched words, in digits of the word as a number. -/
def Obligations.UnmatchedWordsAreTheSixGroups : Prop :=
  ∀ w : Word, decodeWord w = none ↔
    (w.toNat / 4096 = 0x0 ∧ w.toNat ≠ 0x00E0 ∧ w.toNat ≠ 0x00EE) ∨
    (w.toNat / 4096 = 0x5 ∧ w.toNat % 16 ≠ 0) ∨
    (w.toNat / 4096 = 0x8 ∧ w.toNat % 16 ∈ [0x8, 0x9, 0xA, 0xB, 0xC, 0xD, 0xF]) ∨
    (w.toNat / 4096 = 0x9 ∧ w.toNat % 16 ≠ 0) ∨
    (w.toNat / 4096 = 0xE ∧ w.toNat % 256 ∉ [0x9E, 0xA1]) ∨
    (w.toNat / 4096 = 0xF ∧ w.toNat % 256 ∉ [0x07, 0x0A, 0x15, 0x18, 0x1E, 0x29, 0x33, 0x55, 0x65])

/-- R61, R63: ten words written out from the patterns, one or more of each format of R61 (Z, A, I, R, D, S). -/
def Obligations.SampleWordsDecode : Prop :=
  decodeWord 0x00E0 = some .cls ∧ decodeWord 0x00EE = some .ret ∧ decodeWord 0x1ABC = some (.jpNnn 0xABC) ∧
  decodeWord 0x332A = some (.seVxNn 3 0x2A) ∧ decodeWord 0x8125 = some (.subVxVy 1 2) ∧
  decodeWord 0xA2F0 = some (.ldINnn 0x2F0) ∧ decodeWord 0xD125 = some (.drwVxVyN 1 2 5) ∧
  decodeWord 0xE29E = some (.skpVx 2) ∧ decodeWord 0xF50A = some (.ldVxK 5) ∧ decodeWord 0xF365 = some (.ldVxMi 3)

/-- R44, R60: an instruction is two bytes, the high byte first; the bytes after it are left over. The decoder on numbered
table words reads the same instruction. -/
def Obligations.TwoBytesHighByteFirst : Prop :=
  ∀ (i : Instr) (hi lo : Byte) (rest : List Byte), i.wf = true →
    hi.toNat = (encode i).toNat / 256 → lo.toNat = (encode i).toNat % 256 →
    decode (hi :: lo :: rest) = .ok (i, rest) ∧ decodeTableWord 16 (encode i).toNat = some i

/-! ### The step -/

/-- R81, R82: with RUN = Running and PC + 1 in memory, a step is exec of the instruction whose word stands at PC, high
byte first; the meaning itself moves PC (R83). -/
def Obligations.StepRunsTheDecodedInstruction : Prop :=
  ∀ (s : State) (i : Instr), s.run = .running → s.pc.toNat + 1 < 4096 →
    decodeWord (wordAt s s.pc.toNat) = some i → step s = exec i s

/-- R81: the fetch is bounds-checked, reads the two bytes at PC with the first as the high byte, has no alignment check;
out of bounds it raises MemoryBoundsError and PC keeps its value (the check at the fetch is the spec's decision D4, no
alignment D5). -/
def Obligations.FetchIsBoundsCheckedAndBigEndian : Prop :=
  ∀ s : State, s.run = .running →
    (s.pc.toNat ≥ 4095 → step s = .next (haltedWith .memoryBoundsError s)) ∧
    (s.pc.toNat < 4095 → fetchWord s = some (wordAt s s.pc.toNat))

/-- R171: an unmatched word moves PC by 2, changes nothing else, and reports OpcodeError; the all-zero word is one. -/
def Obligations.UnmatchedWordReportsOpcodeError : Prop :=
  (∀ s : State, s.run = .running → s.pc.toNat < 4095 → decodeWord (wordAt s s.pc.toNat) = none →
    step s = .next { s with pc := s.pc + 2, result := some ⟨.opcodeError, false⟩ }) ∧
  decodeWord 0x0000 = none

/-- 40 section 3 (the spec's decision D2): with RUN = Halted(e) a step changes nothing and reports Fatal(e), however
often it is called. -/
def Obligations.HaltedStepsRepeatTheError : Prop :=
  ∀ (n : Nat) (s : State) (e : FatalError), s.run = .halted e →
    Host.Core.run core (n + 1) s = .next { s with result := some ⟨.fatal e, false⟩ }

/-- 40 section 2 (the spec's decision D22; log 5): the result is an output only, the next step does not read it. -/
def Obligations.StepDoesNotReadTheLastResult : Prop :=
  ∀ (s : State) (r : Option StepResult), step { s with result := r } = step s

/-- R88: a step runs to completion from every state and returns a result. That a fatal error is a next state too, so that
no step faults or is refused, is the model's choice (log 6), and that a step in Halted(e) returns is the spec's decision
D2. -/
def Obligations.EveryStepReturnsAResult : Prop :=
  ∀ s : State, ∃ t r, step s = .next t ∧ t.result = some r

/-- 40 section 2, the table "Status by case", and R85 (the spec's decisions D12, D22): Fatal(e) exactly when RUN is
Halted(e) afterwards, OpcodeError exactly for an unmatched fetched word, `display_changed` exactly when a display
instruction ran to completion. -/
def Obligations.StepResultByCase : Prop :=
  ∀ s t : State, step s = .next t →
    (∀ e, t.run = .halted e ↔ ∃ d, t.result = some ⟨.fatal e, d⟩) ∧
    ((∃ d, t.result = some ⟨.opcodeError, d⟩) ↔
      s.run = .running ∧ s.pc.toNat < 4095 ∧ decodeWord (wordAt s s.pc.toNat) = none) ∧
    ((∃ st, t.result = some ⟨st, true⟩) ↔
      s.run = .running ∧ t.notHalted ∧ ∃ i, instructionAt s = some i ∧ isDisplay i)

/-! ### Errors -/

/-- R173, R174: StackOverflowError is raised by 2NNN with SP = 16 and by nothing else, StackUnderflowError by 00EE with
SP = 0 and by nothing else. (RUN = Halted(e) as the record of the error is the spec's decision D2.) -/
def Obligations.StackErrorsHaveExactlyTheirCauses : Prop :=
  ∀ s t : State, s.run = .running → step s = .next t →
    (t.run = .halted .stackOverflowError ↔ s.sp.val = 16 ∧ ∃ nnn, instructionAt s = some (.callNnn nnn)) ∧
    (t.run = .halted .stackUnderflowError ↔ s.sp.val = 0 ∧ instructionAt s = some .ret)

/-- 60 section 1 (the spec's decision D4): MemoryBoundsError is raised at exactly five places, the fetch, DXYN with
N ≥ 1, FX33, FX55 and FX65, each when an address about to be used is above 4095. -/
def Obligations.MemoryBoundsErrorHasExactlyFiveCauses : Prop :=
  ∀ s t : State, s.run = .running → step s = .next t →
    (t.run = .halted .memoryBoundsError ↔
      s.pc.toNat + 1 > 4095 ∨ ∃ i, instructionAt s = some i ∧ raisesIn i s .memoryBoundsError)

/-- 60 section 2 (the spec's decisions D2, D3): a fatal error is precise. After it the state is the pre-instruction state
with RUN replaced, PC included. -/
def Obligations.FatalErrorsArePrecise : Prop :=
  ∀ (s t : State) (e : FatalError), s.run = .running → step s = .next t → t.run = .halted e → t = haltedWith e s

/-- 60 section 3 (the spec's decision D2): no operation but `initialize` leaves Halted(e). -/
def Obligations.OnlyInitializeLeavesHalted : Prop :=
  ∀ (op : Operation) (z z' : Session) (r : Reply) (e : FatalError), op ≠ .reset → z.state.run = .halted e →
    Session.operate op z = .next (z', r) → z'.state.run = .halted e

/-! ### Invariants and frames -/

/-- 10 section 5, reachable ranges: a step keeps the invariant (canonical memory, PC ≤ 0x10FE, I ≤ 0x1000, live stack
entries and a waiting PC at most 0xFFE). -/
def Obligations.StepKeepsTheInvariant : Prop :=
  ∀ s t : State, s.Inv → step s = .next t → t.Inv

/-- R27: the reset state of every configuration meets the invariant. -/
def Obligations.ResetMeetsTheInvariant : Prop :=
  ∀ cfg : Config, (State.resetWith cfg).Inv

/-- 10 section 5, reachable ranges, over every agent: every operation keeps the invariant, so every schedule from every
reset state ends in a state that meets it. -/
def Obligations.EveryScheduleKeepsTheInvariant : Prop :=
  (∀ (op : Operation) (z z' : Session) (r : Reply), z.state.Inv → Session.operate op z = .next (z', r) → z'.state.Inv) ∧
  (∀ (cfg : Config) (ops : List Operation) (z : Session),
    Session.runOps ops (Session.start cfg) = .next z → z.state.Inv)

/-- The frame rule (00 section 6): a part that the instruction's rule does not write keeps its value, for all 34
instructions and every part, memory byte by byte. -/
def Obligations.InstructionsWriteOnlyWhatTheirRulesName : Prop :=
  ∀ (i : Instr) (s t : State) (p : Part), exec i s = .next t → ¬ mayWrite i s p → samePart s t p

/-- 00 section 6 and the table of 10 section 1, over every agent: KEY is written only by `set_key`, PIX only by 00E0 and
DXYN, DT only by FX15 and `tick_timers`, ST only by FX18 and `tick_timers`, MEM only by FX33, FX55 and `load_program`
(and each by `initialize`); the configuration by nothing. -/
def Obligations.WhoWritesWhat : Prop :=
  ∀ (op : Operation) (z z' : Session) (r : Reply), Session.operate op z = .next (z', r) →
    z'.state.config = z.state.config ∧
    (op ≠ .reset →
      (∀ k : Reg, z'.state.key[k] ≠ z.state.key[k] → ∃ b, op = .setKey k b) ∧
      (z'.state.pix ≠ z.state.pix → op = .step ∧ ∃ i, instructionAt z.state = some i ∧ isDisplay i) ∧
      (z'.state.dt ≠ z.state.dt →
        op = .tickTimers ∨ op = .step ∧ ∃ x, instructionAt z.state = some (.ldDtVx x)) ∧
      (z'.state.st ≠ z.state.st →
        op = .tickTimers ∨ op = .step ∧ ∃ x, instructionAt z.state = some (.ldStVx x)) ∧
      (∀ a : Nat, z'.state.byteAt a ≠ z.state.byteAt a →
        (∃ bytes, op = .loadProgram bytes ∧ 0x200 ≤ a ∧ a < 0x200 + bytes.length) ∨
        op = .step ∧ ∃ i, instructionAt z.state = some i ∧ storesTo i z.state a))

/-! ### Control flow -/

/-- R95: 00EE takes SP down by one and goes to the entry at the new SP plus 2 (a 16-bit sum); with SP = 0 it raises
(the state it then leaves is the spec's decisions D2, D3). -/
def Obligations.ReturnGoesToEntryPlusTwo : Prop :=
  ∀ s : State,
    (∀ h : 0 < s.sp.val, completes .ret s false (fun p => p = .pc ∨ p = .sp) fun t =>
      t.sp.val = s.sp.val - 1 ∧ t.pc = s.stack[s.sp.val - 1] + 2) ∧
    (s.sp.val = 0 → raises .ret s .stackUnderflowError)

/-- R96, R102: 1NNN sets PC to exactly NNN; BNNN sets it to NNN + V0, not reduced modulo 4096. -/
def Obligations.JumpsSetPc : Prop :=
  ∀ (nnn : Imm12) (s : State),
    (completes (.jpNnn nnn) s false (fun p => p = .pc) fun t => t.pc.toNat = nnn.toNat) ∧
    (completes (.jpV0Nnn nnn) s false (fun p => p = .pc) fun t => t.pc.toNat = nnn.toNat + (s.readV 0).toNat)

/-- R97: 2NNN pushes its own address, takes SP up by one and goes to NNN; with SP = 16 it raises (the state it
then leaves is the spec's decisions D2, D3). -/
def Obligations.CallPushesItsOwnAddress : Prop :=
  ∀ (nnn : Imm12) (s : State),
    (∀ h : s.sp.val < 16,
      completes (.callNnn nnn) s false (fun p => p = .pc ∨ p = .sp ∨ p = .stack ⟨s.sp.val, h⟩) fun t =>
        t.stack[s.sp.val] = s.pc ∧ t.sp.val = s.sp.val + 1 ∧ t.pc.toNat = nnn.toNat) ∧
    (s.sp.val = 16 → raises (.callNnn nnn) s .stackOverflowError)

/-- R98 to R101: the register skips add 4 to PC when their condition holds and 2 when not, and change nothing else. -/
def Obligations.RegisterSkipsAddFourOrTwo : Prop :=
  ∀ (x y : Reg) (nn : Byte) (s : State),
    (completes (.seVxNn x nn) s false (fun p => p = .pc) fun t =>
      (s.readV x = nn → t.pc = s.pc + 4) ∧ (s.readV x ≠ nn → t.pc = s.pc + 2)) ∧
    (completes (.sneVxNn x nn) s false (fun p => p = .pc) fun t =>
      (s.readV x ≠ nn → t.pc = s.pc + 4) ∧ (s.readV x = nn → t.pc = s.pc + 2)) ∧
    (completes (.seVxVy x y) s false (fun p => p = .pc) fun t =>
      (s.readV x = s.readV y → t.pc = s.pc + 4) ∧ (s.readV x ≠ s.readV y → t.pc = s.pc + 2)) ∧
    (completes (.sneVxVy x y) s false (fun p => p = .pc) fun t =>
      (s.readV x ≠ s.readV y → t.pc = s.pc + 4) ∧ (s.readV x = s.readV y → t.pc = s.pc + 2))

/-- R103: a return whose stack entry is still the one the call wrote brings SP back and goes to the call's address plus
2; from an empty stack 16 nested calls succeed and a 17th raises StackOverflowError (the state it then leaves is the
spec's decisions D2, D3). -/
def Obligations.CallAndReturnPairUp : Prop :=
  (∀ (nnn : Imm12) (s t u : State) (h : s.sp.val < 16), exec (.callNnn nnn) s = .next t → u.sp = t.sp →
    u.stack[s.sp.val] = t.stack[s.sp.val] →
    ∃ w, exec .ret u = .next w ∧ w.sp = s.sp ∧ w.pc = s.pc + 2) ∧
  (∀ (targets : List Imm12) (nnn : Imm12) (s : State), s.sp = 0 → targets.length ≤ 16 →
    ∃ t, execAll (targets.map .callNnn) s = .next t ∧ t.sp.val = targets.length ∧ t.run = s.run ∧
      (targets.length = 16 → raises (.callNnn nnn) t .stackOverflowError))

/-! ### Register load, arithmetic, logic, shift, random -/

/-- R112, R113, R114: load an immediate, add an immediate modulo 256 with no flag, copy a register. -/
def Obligations.LoadAddImmediateAndCopy : Prop :=
  ∀ (x y : Reg) (nn : Byte) (s : State),
    (completes (.ldVxNn x nn) s false (fun p => p = .v x ∨ p = .pc) fun t => t.readV x = nn ∧ t.pc = s.pc + 2) ∧
    (completes (.addVxNn x nn) s false (fun p => p = .v x ∨ p = .pc) fun t =>
      (t.readV x).toNat = ((s.readV x).toNat + nn.toNat) % 256 ∧ t.pc = s.pc + 2) ∧
    (completes (.ldVxVy x y) s false (fun p => p = .v x ∨ p = .pc) fun t =>
      t.readV x = s.readV y ∧ t.pc = s.pc + 2)

/-- R115, R116, R117: bitwise or, and, exclusive or, with VF not written unless it is the destination. -/
def Obligations.LogicIsBitwiseWithoutFlag : Prop :=
  ∀ (x y : Reg) (s : State),
    (completes (.orVxVy x y) s false (fun p => p = .v x ∨ p = .pc) fun t => t.pc = s.pc + 2 ∧
      ∀ k < 8, (t.readV x).getLsbD k = ((s.readV x).getLsbD k || (s.readV y).getLsbD k)) ∧
    (completes (.andVxVy x y) s false (fun p => p = .v x ∨ p = .pc) fun t => t.pc = s.pc + 2 ∧
      ∀ k < 8, (t.readV x).getLsbD k = ((s.readV x).getLsbD k && (s.readV y).getLsbD k)) ∧
    (completes (.xorVxVy x y) s false (fun p => p = .v x ∨ p = .pc) fun t => t.pc = s.pc + 2 ∧
      ∀ k < 8, (t.readV x).getLsbD k = ((s.readV x).getLsbD k ^^ (s.readV y).getLsbD k))

/-- 8XY4 (42 section 3): the result is the sum modulo 256, VF is 1 exactly when the sum exceeds 255, the operands being
the old values also when Y = F. With X = F, VF keeps the result (the spec's decision D7). -/
def Obligations.AddSetsCarry : Prop :=
  ∀ (x y : Reg) (s : State),
    completes (.addVxVy x y) s false (fun p => p = .v x ∨ p = .v regF ∨ p = .pc) fun t =>
      (t.readV x).toNat = ((s.readV x).toNat + (s.readV y).toNat) % 256 ∧ t.pc = s.pc + 2 ∧
      (x ≠ regF → (t.readV regF).toNat = if (s.readV x).toNat + (s.readV y).toNat > 255 then 1 else 0)

/-- 8XY5 and 8XY7 (42 section 3): the difference modulo 256, VF 1 exactly when no borrow, equal operands giving 1. With
X = F, VF keeps the result (the spec's decision D7). -/
def Obligations.SubtractSetsNoBorrow : Prop :=
  ∀ (x y : Reg) (s : State),
    (completes (.subVxVy x y) s false (fun p => p = .v x ∨ p = .v regF ∨ p = .pc) fun t =>
      (t.readV x).toNat = ((s.readV x).toNat + 256 - (s.readV y).toNat) % 256 ∧ t.pc = s.pc + 2 ∧
      (x ≠ regF → (t.readV regF).toNat = if (s.readV x).toNat ≥ (s.readV y).toNat then 1 else 0)) ∧
    (completes (.subnVxVy x y) s false (fun p => p = .v x ∨ p = .v regF ∨ p = .pc) fun t =>
      (t.readV x).toNat = ((s.readV y).toNat + 256 - (s.readV x).toNat) % 256 ∧ t.pc = s.pc + 2 ∧
      (x ≠ regF → (t.readV regF).toNat = if (s.readV y).toNat ≥ (s.readV x).toNat then 1 else 0))

/-- 8XY6 and 8XYE (42 section 3): shifts of V[X] by one, VF the bit that leaves, V[Y] neither read nor written (unless it
is V[X] or VF). With X = F, VF keeps the result (the spec's decision D7). -/
def Obligations.ShiftsReportTheBitShiftedOut : Prop :=
  ∀ (x y : Reg) (s : State),
    (completes (.shrVx x y) s false (fun p => p = .v x ∨ p = .v regF ∨ p = .pc) fun t =>
      (t.readV x).toNat = (s.readV x).toNat / 2 ∧ t.pc = s.pc + 2 ∧
      (x ≠ regF → (t.readV regF).toNat = (s.readV x).toNat % 2)) ∧
    (completes (.shlVx x y) s false (fun p => p = .v x ∨ p = .v regF ∨ p = .pc) fun t =>
      (t.readV x).toNat = (s.readV x).toNat * 2 % 256 ∧ t.pc = s.pc + 2 ∧
      (x ≠ regF → (t.readV regF).toNat = (s.readV x).toNat / 128))

/-- CXNN (42 section 3, the spec's open point D11; log 4): V[X] is a free byte under the mask NN, whatever the draw, and
the next draw is another. -/
def Obligations.RandomByteUnderMask : Prop :=
  ∀ (x : Reg) (nn : Byte) (s : State),
    completes (.rndVxNn x nn) s false (fun p => p = .v x ∨ p = .pc ∨ p = .draws) fun t =>
      t.pc = s.pc + 2 ∧ t.draws = s.draws + 1 ∧
      ∀ k < 8, (t.readV x).getLsbD k = ((Config.drawByte s.draws).getLsbD k && nn.getLsbD k)

/-! ### Address register, load and store -/

/-- R130, R131, R132: I = NNN; I = (I + V[X]) mod 4096 with VF not written; I = V[X] · 5, not masked. -/
def Obligations.AddressRegisterInstructions : Prop :=
  ∀ (x : Reg) (nnn : Imm12) (s : State),
    (completes (.ldINnn nnn) s false (fun p => p = .i ∨ p = .pc) fun t =>
      t.i.toNat = nnn.toNat ∧ t.pc = s.pc + 2) ∧
    (completes (.addIVx x) s false (fun p => p = .i ∨ p = .pc) fun t =>
      t.i.toNat = (s.i.toNat + (s.readV x).toNat) % 4096 ∧ t.pc = s.pc + 2) ∧
    (completes (.ldFVx x) s false (fun p => p = .i ∨ p = .pc) fun t =>
      t.i.toNat = (s.readV x).toNat * 5 ∧ t.pc = s.pc + 2)

/-- R133: the three digits go to I, I + 1, I + 2, every other byte reads as before, and I stays; with I + 2 > 4095 it
raises and stores nothing (the spec's decisions D2, D3). The premise says that MEM is in its canonical form. -/
def Obligations.BcdStoresThreeDigits : Prop :=
  ∀ (x : Reg) (s : State), Memory.wf s.config.font s.mem = true →
    (s.i.toNat + 2 ≤ 4095 →
      completes (.ldBVx x) s false (fun p => p = .pc ∨ ∃ a, p = .mem a ∧ storesTo (.ldBVx x) s a) fun t =>
        (t.byteAt (s.dataAddress 0)).toNat = (s.readV x).toNat / 100 ∧
        (t.byteAt (s.dataAddress 1)).toNat = (s.readV x).toNat / 10 % 10 ∧
        (t.byteAt (s.dataAddress 2)).toNat = (s.readV x).toNat % 10 ∧ t.pc = s.pc + 2) ∧
    (s.i.toNat + 2 > 4095 → raises (.ldBVx x) s .memoryBoundsError)

/-- R134, with the policy of 43 section 1 as a parameter: V[j] goes to I + j for j = 0 to X, every other byte reads as
before, I moves by X + 1 or not at all; with I + X > 4095 it raises and stores nothing (the spec's decisions D2, D3).
The premise says that MEM is in its canonical form. -/
def Obligations.BlockStoreWritesRegisters : Prop :=
  ∀ (x : Reg) (s : State), Memory.wf s.config.font s.mem = true →
    (s.i.toNat + x.val ≤ 4095 →
      completes (.ldMiVx x) s false
        (fun p => p = .pc ∨ p = .i ∨ ∃ a, p = .mem a ∧ storesTo (.ldMiVx x) s a) fun t =>
        (∀ j : Reg, j ≤ x → t.byteAt (s.dataAddress j.val) = s.readV j) ∧ t.pc = s.pc + 2 ∧
        t.i.toNat = s.i.toNat + if s.config.loadStoreIncrementsI then x.val + 1 else 0) ∧
    (s.i.toNat + x.val > 4095 → raises (.ldMiVx x) s .memoryBoundsError)

/-- R135, with the policy of 43 section 1 as a parameter: V[j] is the byte at I + j for j = 0 to X, the registers above X
and all of memory are unchanged; with I + X > 4095 it raises and loads nothing (the spec's decisions D2, D3). -/
def Obligations.BlockLoadReadsRegisters : Prop :=
  ∀ (x : Reg) (s : State),
    (s.i.toNat + x.val ≤ 4095 →
      completes (.ldVxMi x) s false (fun p => p = .pc ∨ p = .i ∨ ∃ j, p = .v j ∧ j ≤ x) fun t =>
        (∀ j : Reg, j ≤ x → t.readV j = s.byteAt (s.dataAddress j.val)) ∧ t.pc = s.pc + 2 ∧
        t.i.toNat = s.i.toNat + if s.config.loadStoreIncrementsI then x.val + 1 else 0) ∧
    (s.i.toNat + x.val > 4095 → raises (.ldVxMi x) s .memoryBoundsError)

/-- R134, R135 together: what FX55 stores at I, FX65 with the same I loads back, into any state with that memory. -/
def Obligations.BlockStoreThenLoadRestores : Prop :=
  ∀ (x : Reg) (s t u : State), Memory.wf s.config.font s.mem = true → s.i.toNat + x.val ≤ 4095 →
    exec (.ldMiVx x) s = .next t → u.mem = t.mem → u.config = s.config → u.i = s.i →
    ∃ w, exec (.ldVxMi x) u = .next w ∧ ∀ j : Reg, j ≤ x → w.readV j = s.readV j

/-- 20 section 7, instruction-fetch coherence: the word that FX55 stores at I is the word a fetch at that address reads
next. -/
def Obligations.StoredWordIsFetched : Prop :=
  ∀ (x : Reg) (s t : State), Memory.wf s.config.font s.mem = true → 1 ≤ x.val → s.i.toNat + x.val ≤ 4095 →
    exec (.ldMiVx x) s = .next t →
    fetchWord { t with pc := s.i } = some (BitVec.ofNat 16 ((s.readV 0).toNat * 256 + (s.readV 1).toNat))

/-! ### Display -/

/-- R145: every cell off, nothing else changes but PC, `display_changed` is true. -/
def Obligations.ClearTurnsEveryCellOff : Prop :=
  ∀ s : State, completes .cls s true (fun p => p = .pc ∨ ∃ x y, p = .pix x y) fun t =>
    (∀ x y, t.pix.cell x y = false) ∧ t.pc = s.pc + 2

/-- DXYN (44 sections 1 and 2; coordinates and bytes read before any write is the spec's decision D8): exactly the cells
the sprite covers are toggled, wrapping in each axis, VF is 1 exactly when one of them was on and else 0; N = 0 cannot
raise; a row address above 4095 raises and draws nothing. -/
def Obligations.DrawTogglesExactlyTheSprite : Prop :=
  ∀ (x y : Reg) (n : Nat) (s : State), n ≤ 15 →
    ((n = 0 ∨ s.i.toNat + n - 1 ≤ 4095) →
      completes (.drwVxVyN x y n) s true (fun p => p = .pc ∨ p = .v regF ∨
          ∃ cx cy, p = .pix cx cy ∧ spriteCovers s (s.readV x) (s.readV y) n cx cy) fun t =>
        (∀ cx cy, spriteCovers s (s.readV x) (s.readV y) n cx cy → t.pix.cell cx cy = !s.pix.cell cx cy) ∧
        ((∃ cx cy, spriteCovers s (s.readV x) (s.readV y) n cx cy ∧ s.pix.cell cx cy = true) → t.readV regF = 1) ∧
        ((∀ cx cy, spriteCovers s (s.readV x) (s.readV y) n cx cy → s.pix.cell cx cy = false) → t.readV regF = 0) ∧
        t.pc = s.pc + 2) ∧
    (1 ≤ n ∧ s.i.toNat + n - 1 > 4095 → raises (.drwVxVyN x y n) s .memoryBoundsError)

/-- 44 section 1: no two pixels of one sprite of at most 15 rows fall on the same cell. -/
def Obligations.SpritePixelsFallOnDistinctCells : Prop :=
  ∀ (vx vy : Byte) (rows : List Byte), rows.length ≤ 15 → (spriteCells vx vy rows 0).Nodup

/-- 44 section 2, the collision law: the same DXYN twice, with X and Y not F, restores the display, and the second flag is
1 exactly when some cell of the sprite was off before the first. -/
def Obligations.DrawingTwiceRestoresTheDisplay : Prop :=
  ∀ (x y : Reg) (n : Nat) (s t : State), x ≠ regF → y ≠ regF → n ≤ 15 → (n = 0 ∨ s.i.toNat + n - 1 ≤ 4095) →
    exec (.drwVxVyN x y n) s = .next t →
    ∃ u, exec (.drwVxVyN x y n) t = .next u ∧ u.pix = s.pix ∧
      (u.readV regF = 1 ↔
        ∃ cx cy, spriteCovers s (s.readV x) (s.readV y) n cx cy ∧ s.pix.cell cx cy = false)

/-! ### Timers -/

/-- R155, R156, R157: read DT, set DT, set ST, each alone. -/
def Obligations.TimerInstructions : Prop :=
  ∀ (x : Reg) (s : State),
    (completes (.ldVxDt x) s false (fun p => p = .v x ∨ p = .pc) fun t => t.readV x = s.dt ∧ t.pc = s.pc + 2) ∧
    (completes (.ldDtVx x) s false (fun p => p = .dt ∨ p = .pc) fun t => t.dt = s.readV x ∧ t.pc = s.pc + 2) ∧
    (completes (.ldStVx x) s false (fun p => p = .st ∨ p = .pc) fun t => t.st = s.readV x ∧ t.pc = s.pc + 2)

/-- 60 section 5 (acting in Halted too is the spec's decision D20): a tick takes each timer down by one, floored at 0, in
every run state, and changes nothing else. -/
def Obligations.TickDecrementsBothTimersToZero : Prop :=
  ∀ z : Session, ∃ t, Session.operate .tickTimers z = .next (⟨t, z.phase⟩, .done) ∧
    t.dt.toNat = z.state.dt.toNat - 1 ∧ t.st.toNat = z.state.st.toNat - 1 ∧
    t = { z.state with dt := t.dt, st := t.st }

/-! ### Keypad -/

/-- EX9E and EXA1 (46 sections 1 and 2; the index modulo 16 for V[X] > 15 is the spec's decision D9): skip when the key
V[X] mod 16 is pressed, or is not. -/
def Obligations.KeySkipsTestOneKey : Prop :=
  ∀ (x k : Reg) (s : State), k.val = (s.readV x).toNat % 16 →
    (completes (.skpVx x) s false (fun p => p = .pc) fun t =>
      (s.key[k] = true → t.pc = s.pc + 4) ∧ (s.key[k] = false → t.pc = s.pc + 2)) ∧
    (completes (.sknpVx x) s false (fun p => p = .pc) fun t =>
      (s.key[k] = false → t.pc = s.pc + 4) ∧ (s.key[k] = true → t.pc = s.pc + 2))

/-- FX0A (46 section 3; not looking at the keys in this step is the spec's decision D10): RUN becomes WaitingForKey(X) and
nothing else changes, PC included. -/
def Obligations.KeyWaitIsEntered : Prop :=
  ∀ (x : Reg) (s : State), completes (.ldVxK x) s false (fun p => p = .run) fun t => t.run = .waitingForKey x

/-- R166, R167 (the level test is the spec's decision D10): the poll stores the lowest pressed key, adds 2 to PC and goes
back to Running, with every key as it was; with no key pressed nothing changes. -/
def Obligations.PollStoresTheLowestKey : Prop :=
  ∀ (s : State) (x : Reg), s.run = .waitingForKey x →
    (∀ k : Reg, s.key[k] = true → (∀ j : Reg, j < k → s.key[j] = false) →
      ∃ t, step s = .next t ∧ (t.readV x).toNat = k.val ∧ t.pc = s.pc + 2 ∧ t.run = .running ∧
        t.result = some ⟨.ok, false⟩ ∧ ∀ p, p ≠ .v x → p ≠ .pc → p ≠ .run → samePart s t p) ∧
    ((∀ k : Reg, s.key[k] = false) → step s = .next { s with result := some ⟨.ok, false⟩ })

/-- 46 section 3: with no key pressed, any number of steps leaves PC and everything else as it is. -/
def Obligations.KeyWaitHoldsWhileNoKeyIsPressed : Prop :=
  ∀ (n : Nat) (s : State) (x : Reg), s.run = .waitingForKey x → (∀ k : Reg, s.key[k] = false) →
    Host.Core.run core (n + 1) s = .next { s with result := some ⟨.ok, false⟩ }

/-! ### The host's operations -/

/-- 60 section 6 (the index domain is the spec's decision D19): `set_key` writes one key and nothing else. -/
def Obligations.SetKeyWritesOneKey : Prop :=
  ∀ (k : Reg) (b : Bool) (z : Session), ∃ t, Session.operate (.setKey k b) z = .next (⟨t, z.phase⟩, .done) ∧
    t.key[k] = b ∧ (∀ p, p ≠ .key k → samePart z.state t p) ∧ t.result = z.state.result

/-- R201 (the empty program is the spec's decision D17): an empty program or one above 3584 bytes is a LoadError with no
change; any other is copied byte by byte from 0x200 on, and nothing else changes. After a load into a reset machine the
font is in place. -/
def Obligations.LoadCopiesTheProgram : Prop :=
  (∀ (bytes : List Byte) (z : Session), z.phase = .initialized →
    ((bytes.length = 0 ∨ bytes.length > 3584) →
      Session.operate (.loadProgram bytes) z = .next (z, .loadError)) ∧
    (Memory.wf z.state.config.font z.state.mem = true → 0 < bytes.length → bytes.length ≤ 3584 →
      ∃ t, Session.operate (.loadProgram bytes) z = .next (⟨t, .loaded⟩, .loaded) ∧
        (∀ j (h : j < bytes.length), t.byteAt (0x200 + j) = bytes[j]) ∧ t.result = z.state.result ∧
        ∀ p, (∀ a, p = .mem a → a < 0x200 ∨ 0x200 + bytes.length ≤ a) → samePart z.state t p)) ∧
  (∀ (bytes : List Byte) (cfg : Config) (z : Session),
    Session.operate (.loadProgram bytes) (Session.start cfg) = .next (z, .loaded) →
      ∀ a (h : a < 80), z.state.byteAt a = cfg.font[a])

/-- 70 section 2 (the spec's decision D18; log 11): `load_program` has its place between `initialize` and the first
`step`, once; elsewhere it is refused. -/
def Obligations.LoadOutOfOrderIsRefused : Prop :=
  ∀ (bytes : List Byte) (z z' : Session) (r : Reply),
    (z.phase = .loaded ∨ z.phase = .stepped →
      Session.operate (.loadProgram bytes) z = .refused .loadOutOfOrder) ∧
    (Session.operate .step z = .next (z', r) → z'.phase = .stepped) ∧
    (Session.operate .reset z = .next (z', r) → z'.phase = .initialized) ∧
    (Session.operate (.loadProgram bytes) z = .next (z', r) →
      z.phase = .initialized ∧ (r = .loaded ↔ z'.phase = .loaded) ∧ (r = .loadError → z' = z))

/-- R27: after `initialize`, called in any state, every state element holds its reset value, for every font.
(That it may be called again is the spec's decision D27.) -/
def Obligations.InitializeResetsEveryElement : Prop :=
  ∀ z : Session, ∃ t, Session.operate .reset z = .next (⟨t, .initialized⟩, .done) ∧
    (∀ a (h : a < 80), t.byteAt a = z.state.config.font[a]) ∧ (∀ a, 80 ≤ a → a ≤ 4095 → t.byteAt a = 0) ∧
    (∀ r : Reg, t.readV r = 0) ∧ t.i = 0 ∧ t.pc = 0x200 ∧ t.sp = 0 ∧ (∀ k : Reg, t.stack[k] = 0) ∧
    t.dt = 0 ∧ t.st = 0 ∧ (∀ x y, t.pix.cell x y = false) ∧ (∀ k : Reg, t.key[k] = false) ∧ t.run = .running

/-- R22, R189, R190: the framebuffer is the 2048 cells in row-major order, the sound is on exactly while ST > 0, and
neither read changes anything. -/
def Obligations.HostReadsChangeNothing : Prop :=
  ∀ z : Session,
    (∃ cells, Session.operate .framebuffer z = .next (z, .frame cells) ∧
      ∀ (x : Fin 64) (y : Fin 32) (h : 64 * y.val + x.val < 2048), cells[64 * y.val + x.val] = z.state.pix.cell x y) ∧
    (∃ on, Session.operate .isSoundActive z = .next (z, .sound on) ∧ (on = true ↔ z.state.st.toNat > 0))

/-- The model's interface (log 12): a word placed with `withFetchWord` is the word the next step fetches. -/
def Obligations.PlacedWordIsFetched : Prop :=
  ∀ (s : State) (w : Nat), Memory.wf s.config.font s.mem = true → w < 65536 →
    (s.withFetchWord 16 w).run = .running ∧ fetchWord (s.withFetchWord 16 w) = some (BitVec.ofNat 16 w)
end

