-- ==== Sys2Proof/Laws/Decode.lean ====
section
/-! SUPPORT. The fields of a word built in one of the three shapes, and the fixed bits of each shape under the masks of
the opcode map. -/

namespace Sys2Proof.Laws

/-! ### The bits of each shape -/

theorem getLsbD_formatA (op : BitVec 4) (nnn : Imm12) (k : Nat) :
    (formatA op nnn).getLsbD k = if k < 12 then nnn.getLsbD k else op.getLsbD (k - 12) :=
  BitVec.getLsbD_append

theorem getLsbD_formatI (op : BitVec 4) (x : Reg) (nn : Byte) (k : Nat) :
    (formatI op x nn).getLsbD k =
      if k < 8 then nn.getLsbD k
      else if k - 8 < 4 then (regBits x).getLsbD (k - 8) else op.getLsbD (k - 8 - 4) := by
  refine (BitVec.getLsbD_append (x := op ++ regBits x) (y := nn)).trans ?_
  rw [BitVec.getLsbD_append]

theorem getLsbD_formatR (op : BitVec 4) (x y : Reg) (fn : BitVec 4) (k : Nat) :
    (formatR op x y fn).getLsbD k =
      if k < 4 then fn.getLsbD k
      else if k - 4 < 4 then (regBits y).getLsbD (k - 4)
      else if k - 4 - 4 < 4 then (regBits x).getLsbD (k - 4 - 4) else op.getLsbD (k - 4 - 4 - 4) := by
  refine (BitVec.getLsbD_append (x := op ++ regBits x ++ regBits y) (y := fn)).trans ?_
  rw [BitVec.getLsbD_append, BitVec.getLsbD_append]

/-! ### The fields of each shape -/

theorem toFin_regBits (x : Reg) : (regBits x).toFin = x := by
  unfold regBits; ext; simp

@[simp] theorem topNibble_formatA (op : BitVec 4) (nnn : Imm12) : topNibble (formatA op nnn) = op := by
  unfold topNibble
  refine BitVec.eq_of_getLsbD_eq fun k hk => ?_
  rw [BitVec.getLsbD_extractLsb', getLsbD_formatA]
  interval_cases k <;> simp

@[simp] theorem fieldNNN_formatA (op : BitVec 4) (nnn : Imm12) : fieldNNN (formatA op nnn) = nnn := by
  unfold fieldNNN
  refine BitVec.eq_of_getLsbD_eq fun k hk => ?_
  rw [BitVec.getLsbD_extractLsb', getLsbD_formatA]
  interval_cases k <;> simp

@[simp] theorem topNibble_formatI (op : BitVec 4) (x : Reg) (nn : Byte) : topNibble (formatI op x nn) = op := by
  unfold topNibble
  refine BitVec.eq_of_getLsbD_eq fun k hk => ?_
  rw [BitVec.getLsbD_extractLsb', getLsbD_formatI]
  interval_cases k <;> simp

@[simp] theorem fieldNN_formatI (op : BitVec 4) (x : Reg) (nn : Byte) : fieldNN (formatI op x nn) = nn := by
  unfold fieldNN
  refine BitVec.eq_of_getLsbD_eq fun k hk => ?_
  rw [BitVec.getLsbD_extractLsb', getLsbD_formatI]
  interval_cases k <;> simp

theorem extractX_formatI (op : BitVec 4) (x : Reg) (nn : Byte) : (formatI op x nn).extractLsb' 8 4 = regBits x := by
  refine BitVec.eq_of_getLsbD_eq fun k hk => ?_
  rw [BitVec.getLsbD_extractLsb', getLsbD_formatI]
  interval_cases k <;> simp

@[simp] theorem fieldX_formatI (op : BitVec 4) (x : Reg) (nn : Byte) : fieldX (formatI op x nn) = x := by
  unfold fieldX; rw [extractX_formatI, toFin_regBits]

@[simp] theorem topNibble_formatR (op : BitVec 4) (x y : Reg) (fn : BitVec 4) : topNibble (formatR op x y fn) = op := by
  unfold topNibble
  refine BitVec.eq_of_getLsbD_eq fun k hk => ?_
  rw [BitVec.getLsbD_extractLsb', getLsbD_formatR]
  interval_cases k <;> simp

@[simp] theorem fieldFn_formatR (op : BitVec 4) (x y : Reg) (fn : BitVec 4) : fieldFn (formatR op x y fn) = fn := by
  unfold fieldFn
  refine BitVec.eq_of_getLsbD_eq fun k hk => ?_
  rw [BitVec.getLsbD_extractLsb', getLsbD_formatR]
  interval_cases k <;> simp

theorem extractX_formatR (op : BitVec 4) (x y : Reg) (fn : BitVec 4) : (formatR op x y fn).extractLsb' 8 4 = regBits x := by
  refine BitVec.eq_of_getLsbD_eq fun k hk => ?_
  rw [BitVec.getLsbD_extractLsb', getLsbD_formatR]
  interval_cases k <;> simp

theorem extractY_formatR (op : BitVec 4) (x y : Reg) (fn : BitVec 4) : (formatR op x y fn).extractLsb' 4 4 = regBits y := by
  refine BitVec.eq_of_getLsbD_eq fun k hk => ?_
  rw [BitVec.getLsbD_extractLsb', getLsbD_formatR]
  interval_cases k <;> simp

@[simp] theorem fieldX_formatR (op : BitVec 4) (x y : Reg) (fn : BitVec 4) : fieldX (formatR op x y fn) = x := by
  unfold fieldX; rw [extractX_formatR, toFin_regBits]

@[simp] theorem fieldY_formatR (op : BitVec 4) (x y : Reg) (fn : BitVec 4) : fieldY (formatR op x y fn) = y := by
  unfold fieldY; rw [extractY_formatR, toFin_regBits]

/-! ### A word is its fields -/

theorem regBits_fieldX (op : Word) : regBits (fieldX op) = op.extractLsb' 8 4 := by
  unfold regBits fieldX
  exact BitVec.eq_of_toNat_eq (by simp)

theorem regBits_fieldY (op : Word) : regBits (fieldY op) = op.extractLsb' 4 4 := by
  unfold regBits fieldY
  exact BitVec.eq_of_toNat_eq (by simp)

theorem formatA_fields (op : Word) : formatA (topNibble op) (fieldNNN op) = op := by
  refine BitVec.eq_of_getLsbD_eq fun k hk => ?_
  rw [getLsbD_formatA]
  unfold topNibble fieldNNN
  interval_cases k <;> simp

theorem formatI_fields (op : Word) : formatI (topNibble op) (fieldX op) (fieldNN op) = op := by
  refine BitVec.eq_of_getLsbD_eq fun k hk => ?_
  rw [getLsbD_formatI, regBits_fieldX]
  unfold topNibble fieldNN
  interval_cases k <;> simp

theorem formatR_fields (op : Word) : formatR (topNibble op) (fieldX op) (fieldY op) (fieldFn op) = op := by
  refine BitVec.eq_of_getLsbD_eq fun k hk => ?_
  rw [getLsbD_formatR, regBits_fieldX, regBits_fieldY]
  unfold topNibble fieldFn
  interval_cases k <;> simp

/-! ### The fixed bits under a mask -/

theorem regBits_zero : regBits 0 = 0 := rfl

theorem formatA_mask (op : BitVec 4) (nnn : Imm12) : formatA op nnn &&& 0xF000 = formatA op 0 := by
  refine BitVec.eq_of_getLsbD_eq fun k hk => ?_
  rw [BitVec.getLsbD_and, getLsbD_formatA, getLsbD_formatA]
  interval_cases k <;> simp

theorem formatI_mask_top (op : BitVec 4) (x : Reg) (nn : Byte) : formatI op x nn &&& 0xF000 = formatI op 0 0 := by
  refine BitVec.eq_of_getLsbD_eq fun k hk => ?_
  rw [BitVec.getLsbD_and, getLsbD_formatI, getLsbD_formatI]
  interval_cases k <;> simp [regBits_zero]

theorem formatI_mask (op : BitVec 4) (x : Reg) (nn : Byte) : formatI op x nn &&& 0xF0FF = formatI op 0 nn := by
  refine BitVec.eq_of_getLsbD_eq fun k hk => ?_
  rw [BitVec.getLsbD_and, getLsbD_formatI, getLsbD_formatI]
  interval_cases k <;> simp [regBits_zero]

theorem formatR_mask_top (op : BitVec 4) (x y : Reg) (fn : BitVec 4) : formatR op x y fn &&& 0xF000 = formatR op 0 0 0 := by
  refine BitVec.eq_of_getLsbD_eq fun k hk => ?_
  rw [BitVec.getLsbD_and, getLsbD_formatR, getLsbD_formatR]
  interval_cases k <;> simp [regBits_zero]

theorem formatR_mask (op : BitVec 4) (x y : Reg) (fn : BitVec 4) : formatR op x y fn &&& 0xF00F = formatR op 0 0 fn := by
  refine BitVec.eq_of_getLsbD_eq fun k hk => ?_
  rw [BitVec.getLsbD_and, getLsbD_formatR, getLsbD_formatR]
  interval_cases k <;> simp [regBits_zero]

/-! ### The two bytes of a word -/

theorem wordOfBytes_split (w : Word) : wordOfBytes (w.extractLsb' 8 8) (w.extractLsb' 0 8) = w := by
  refine BitVec.eq_of_getLsbD_eq fun k hk => ?_
  refine (BitVec.getLsbD_append (x := w.extractLsb' 8 8) (y := w.extractLsb' 0 8)).trans ?_
  rw [BitVec.getLsbD_extractLsb', BitVec.getLsbD_extractLsb']
  interval_cases k <;> simp

end Sys2Proof.Laws
end

