-- ==== Sys2Proof/Laws/State.lean ====
section
/-! SUPPORT. One lemma per field per update of State, each true by rfl, so that no proof unfolds a record update. -/

namespace Sys2Proof.Laws

open Sys2Proof.Machine

section
variable (s : State)

@[simp] theorem writeV_mem (x : Reg) (b : Byte) : (s.writeV x b).mem = s.mem := rfl
@[simp] theorem writeV_v (x : Reg) (b : Byte) : (s.writeV x b).v = s.v.set x b := rfl
@[simp] theorem writeV_i (x : Reg) (b : Byte) : (s.writeV x b).i = s.i := rfl
@[simp] theorem writeV_pc (x : Reg) (b : Byte) : (s.writeV x b).pc = s.pc := rfl
@[simp] theorem writeV_sp (x : Reg) (b : Byte) : (s.writeV x b).sp = s.sp := rfl
@[simp] theorem writeV_stack (x : Reg) (b : Byte) : (s.writeV x b).stack = s.stack := rfl
@[simp] theorem writeV_dt (x : Reg) (b : Byte) : (s.writeV x b).dt = s.dt := rfl
@[simp] theorem writeV_st (x : Reg) (b : Byte) : (s.writeV x b).st = s.st := rfl
@[simp] theorem writeV_pix (x : Reg) (b : Byte) : (s.writeV x b).pix = s.pix := rfl
@[simp] theorem writeV_key (x : Reg) (b : Byte) : (s.writeV x b).key = s.key := rfl
@[simp] theorem writeV_run (x : Reg) (b : Byte) : (s.writeV x b).run = s.run := rfl
@[simp] theorem writeV_config (x : Reg) (b : Byte) : (s.writeV x b).config = s.config := rfl
@[simp] theorem writeV_draws (x : Reg) (b : Byte) : (s.writeV x b).draws = s.draws := rfl
@[simp] theorem writeV_result (x : Reg) (b : Byte) : (s.writeV x b).result = s.result := rfl

@[simp] theorem setI_mem (a : Word) : (s.setI a).mem = s.mem := rfl
@[simp] theorem setI_v (a : Word) : (s.setI a).v = s.v := rfl
@[simp] theorem setI_i (a : Word) : (s.setI a).i = a := rfl
@[simp] theorem setI_pc (a : Word) : (s.setI a).pc = s.pc := rfl
@[simp] theorem setI_sp (a : Word) : (s.setI a).sp = s.sp := rfl
@[simp] theorem setI_stack (a : Word) : (s.setI a).stack = s.stack := rfl
@[simp] theorem setI_dt (a : Word) : (s.setI a).dt = s.dt := rfl
@[simp] theorem setI_st (a : Word) : (s.setI a).st = s.st := rfl
@[simp] theorem setI_pix (a : Word) : (s.setI a).pix = s.pix := rfl
@[simp] theorem setI_key (a : Word) : (s.setI a).key = s.key := rfl
@[simp] theorem setI_run (a : Word) : (s.setI a).run = s.run := rfl
@[simp] theorem setI_config (a : Word) : (s.setI a).config = s.config := rfl
@[simp] theorem setI_draws (a : Word) : (s.setI a).draws = s.draws := rfl
@[simp] theorem setI_result (a : Word) : (s.setI a).result = s.result := rfl

@[simp] theorem setPc_mem (a : Word) : (s.setPc a).mem = s.mem := rfl
@[simp] theorem setPc_v (a : Word) : (s.setPc a).v = s.v := rfl
@[simp] theorem setPc_i (a : Word) : (s.setPc a).i = s.i := rfl
@[simp] theorem setPc_pc (a : Word) : (s.setPc a).pc = a := rfl
@[simp] theorem setPc_sp (a : Word) : (s.setPc a).sp = s.sp := rfl
@[simp] theorem setPc_stack (a : Word) : (s.setPc a).stack = s.stack := rfl
@[simp] theorem setPc_dt (a : Word) : (s.setPc a).dt = s.dt := rfl
@[simp] theorem setPc_st (a : Word) : (s.setPc a).st = s.st := rfl
@[simp] theorem setPc_pix (a : Word) : (s.setPc a).pix = s.pix := rfl
@[simp] theorem setPc_key (a : Word) : (s.setPc a).key = s.key := rfl
@[simp] theorem setPc_run (a : Word) : (s.setPc a).run = s.run := rfl
@[simp] theorem setPc_config (a : Word) : (s.setPc a).config = s.config := rfl
@[simp] theorem setPc_draws (a : Word) : (s.setPc a).draws = s.draws := rfl
@[simp] theorem setPc_result (a : Word) : (s.setPc a).result = s.result := rfl

@[simp] theorem advance_mem : (s.advance).mem = s.mem := rfl
@[simp] theorem advance_v : (s.advance).v = s.v := rfl
@[simp] theorem advance_i : (s.advance).i = s.i := rfl
@[simp] theorem advance_pc : (s.advance).pc = s.pc + 2 := rfl
@[simp] theorem advance_sp : (s.advance).sp = s.sp := rfl
@[simp] theorem advance_stack : (s.advance).stack = s.stack := rfl
@[simp] theorem advance_dt : (s.advance).dt = s.dt := rfl
@[simp] theorem advance_st : (s.advance).st = s.st := rfl
@[simp] theorem advance_pix : (s.advance).pix = s.pix := rfl
@[simp] theorem advance_key : (s.advance).key = s.key := rfl
@[simp] theorem advance_run : (s.advance).run = s.run := rfl
@[simp] theorem advance_config : (s.advance).config = s.config := rfl
@[simp] theorem advance_draws : (s.advance).draws = s.draws := rfl
@[simp] theorem advance_result : (s.advance).result = s.result := rfl

@[simp] theorem skipIf_mem (c : Bool) : (s.skipIf c).mem = s.mem := rfl
@[simp] theorem skipIf_v (c : Bool) : (s.skipIf c).v = s.v := rfl
@[simp] theorem skipIf_i (c : Bool) : (s.skipIf c).i = s.i := rfl
@[simp] theorem skipIf_pc (c : Bool) : (s.skipIf c).pc = s.pc + if c then 4 else 2 := rfl
@[simp] theorem skipIf_sp (c : Bool) : (s.skipIf c).sp = s.sp := rfl
@[simp] theorem skipIf_stack (c : Bool) : (s.skipIf c).stack = s.stack := rfl
@[simp] theorem skipIf_dt (c : Bool) : (s.skipIf c).dt = s.dt := rfl
@[simp] theorem skipIf_st (c : Bool) : (s.skipIf c).st = s.st := rfl
@[simp] theorem skipIf_pix (c : Bool) : (s.skipIf c).pix = s.pix := rfl
@[simp] theorem skipIf_key (c : Bool) : (s.skipIf c).key = s.key := rfl
@[simp] theorem skipIf_run (c : Bool) : (s.skipIf c).run = s.run := rfl
@[simp] theorem skipIf_config (c : Bool) : (s.skipIf c).config = s.config := rfl
@[simp] theorem skipIf_draws (c : Bool) : (s.skipIf c).draws = s.draws := rfl
@[simp] theorem skipIf_result (c : Bool) : (s.skipIf c).result = s.result := rfl

@[simp] theorem setDt_mem (b : Byte) : (s.setDt b).mem = s.mem := rfl
@[simp] theorem setDt_v (b : Byte) : (s.setDt b).v = s.v := rfl
@[simp] theorem setDt_i (b : Byte) : (s.setDt b).i = s.i := rfl
@[simp] theorem setDt_pc (b : Byte) : (s.setDt b).pc = s.pc := rfl
@[simp] theorem setDt_sp (b : Byte) : (s.setDt b).sp = s.sp := rfl
@[simp] theorem setDt_stack (b : Byte) : (s.setDt b).stack = s.stack := rfl
@[simp] theorem setDt_dt (b : Byte) : (s.setDt b).dt = b := rfl
@[simp] theorem setDt_st (b : Byte) : (s.setDt b).st = s.st := rfl
@[simp] theorem setDt_pix (b : Byte) : (s.setDt b).pix = s.pix := rfl
@[simp] theorem setDt_key (b : Byte) : (s.setDt b).key = s.key := rfl
@[simp] theorem setDt_run (b : Byte) : (s.setDt b).run = s.run := rfl
@[simp] theorem setDt_config (b : Byte) : (s.setDt b).config = s.config := rfl
@[simp] theorem setDt_draws (b : Byte) : (s.setDt b).draws = s.draws := rfl
@[simp] theorem setDt_result (b : Byte) : (s.setDt b).result = s.result := rfl

@[simp] theorem setSt_mem (b : Byte) : (s.setSt b).mem = s.mem := rfl
@[simp] theorem setSt_v (b : Byte) : (s.setSt b).v = s.v := rfl
@[simp] theorem setSt_i (b : Byte) : (s.setSt b).i = s.i := rfl
@[simp] theorem setSt_pc (b : Byte) : (s.setSt b).pc = s.pc := rfl
@[simp] theorem setSt_sp (b : Byte) : (s.setSt b).sp = s.sp := rfl
@[simp] theorem setSt_stack (b : Byte) : (s.setSt b).stack = s.stack := rfl
@[simp] theorem setSt_dt (b : Byte) : (s.setSt b).dt = s.dt := rfl
@[simp] theorem setSt_st (b : Byte) : (s.setSt b).st = b := rfl
@[simp] theorem setSt_pix (b : Byte) : (s.setSt b).pix = s.pix := rfl
@[simp] theorem setSt_key (b : Byte) : (s.setSt b).key = s.key := rfl
@[simp] theorem setSt_run (b : Byte) : (s.setSt b).run = s.run := rfl
@[simp] theorem setSt_config (b : Byte) : (s.setSt b).config = s.config := rfl
@[simp] theorem setSt_draws (b : Byte) : (s.setSt b).draws = s.draws := rfl
@[simp] theorem setSt_result (b : Byte) : (s.setSt b).result = s.result := rfl

@[simp] theorem setRun_mem (r : RunState) : (s.setRun r).mem = s.mem := rfl
@[simp] theorem setRun_v (r : RunState) : (s.setRun r).v = s.v := rfl
@[simp] theorem setRun_i (r : RunState) : (s.setRun r).i = s.i := rfl
@[simp] theorem setRun_pc (r : RunState) : (s.setRun r).pc = s.pc := rfl
@[simp] theorem setRun_sp (r : RunState) : (s.setRun r).sp = s.sp := rfl
@[simp] theorem setRun_stack (r : RunState) : (s.setRun r).stack = s.stack := rfl
@[simp] theorem setRun_dt (r : RunState) : (s.setRun r).dt = s.dt := rfl
@[simp] theorem setRun_st (r : RunState) : (s.setRun r).st = s.st := rfl
@[simp] theorem setRun_pix (r : RunState) : (s.setRun r).pix = s.pix := rfl
@[simp] theorem setRun_key (r : RunState) : (s.setRun r).key = s.key := rfl
@[simp] theorem setRun_run (r : RunState) : (s.setRun r).run = r := rfl
@[simp] theorem setRun_config (r : RunState) : (s.setRun r).config = s.config := rfl
@[simp] theorem setRun_draws (r : RunState) : (s.setRun r).draws = s.draws := rfl
@[simp] theorem setRun_result (r : RunState) : (s.setRun r).result = s.result := rfl

@[simp] theorem report_mem (r : StepResult) : (s.report r).mem = s.mem := rfl
@[simp] theorem report_v (r : StepResult) : (s.report r).v = s.v := rfl
@[simp] theorem report_i (r : StepResult) : (s.report r).i = s.i := rfl
@[simp] theorem report_pc (r : StepResult) : (s.report r).pc = s.pc := rfl
@[simp] theorem report_sp (r : StepResult) : (s.report r).sp = s.sp := rfl
@[simp] theorem report_stack (r : StepResult) : (s.report r).stack = s.stack := rfl
@[simp] theorem report_dt (r : StepResult) : (s.report r).dt = s.dt := rfl
@[simp] theorem report_st (r : StepResult) : (s.report r).st = s.st := rfl
@[simp] theorem report_pix (r : StepResult) : (s.report r).pix = s.pix := rfl
@[simp] theorem report_key (r : StepResult) : (s.report r).key = s.key := rfl
@[simp] theorem report_run (r : StepResult) : (s.report r).run = s.run := rfl
@[simp] theorem report_config (r : StepResult) : (s.report r).config = s.config := rfl
@[simp] theorem report_draws (r : StepResult) : (s.report r).draws = s.draws := rfl
@[simp] theorem report_result (r : StepResult) : (s.report r).result = some r := rfl

@[simp] theorem setPix_mem (d : Display) : (s.setPix d).mem = s.mem := rfl
@[simp] theorem setPix_v (d : Display) : (s.setPix d).v = s.v := rfl
@[simp] theorem setPix_i (d : Display) : (s.setPix d).i = s.i := rfl
@[simp] theorem setPix_pc (d : Display) : (s.setPix d).pc = s.pc := rfl
@[simp] theorem setPix_sp (d : Display) : (s.setPix d).sp = s.sp := rfl
@[simp] theorem setPix_stack (d : Display) : (s.setPix d).stack = s.stack := rfl
@[simp] theorem setPix_dt (d : Display) : (s.setPix d).dt = s.dt := rfl
@[simp] theorem setPix_st (d : Display) : (s.setPix d).st = s.st := rfl
@[simp] theorem setPix_pix (d : Display) : (s.setPix d).pix = d := rfl
@[simp] theorem setPix_key (d : Display) : (s.setPix d).key = s.key := rfl
@[simp] theorem setPix_run (d : Display) : (s.setPix d).run = s.run := rfl
@[simp] theorem setPix_config (d : Display) : (s.setPix d).config = s.config := rfl
@[simp] theorem setPix_draws (d : Display) : (s.setPix d).draws = s.draws := rfl
@[simp] theorem setPix_result (d : Display) : (s.setPix d).result = s.result := rfl

@[simp] theorem loadRegs_mem (bytes : List Byte) : (s.loadRegs bytes).mem = s.mem := rfl
@[simp] theorem loadRegs_v (bytes : List Byte) :
    (s.loadRegs bytes).v = Vector.ofFn fun j : Fin 16 => bytes.getD j.val s.v[j] := rfl
@[simp] theorem loadRegs_i (bytes : List Byte) : (s.loadRegs bytes).i = s.i := rfl
@[simp] theorem loadRegs_pc (bytes : List Byte) : (s.loadRegs bytes).pc = s.pc := rfl
@[simp] theorem loadRegs_sp (bytes : List Byte) : (s.loadRegs bytes).sp = s.sp := rfl
@[simp] theorem loadRegs_stack (bytes : List Byte) : (s.loadRegs bytes).stack = s.stack := rfl
@[simp] theorem loadRegs_dt (bytes : List Byte) : (s.loadRegs bytes).dt = s.dt := rfl
@[simp] theorem loadRegs_st (bytes : List Byte) : (s.loadRegs bytes).st = s.st := rfl
@[simp] theorem loadRegs_pix (bytes : List Byte) : (s.loadRegs bytes).pix = s.pix := rfl
@[simp] theorem loadRegs_key (bytes : List Byte) : (s.loadRegs bytes).key = s.key := rfl
@[simp] theorem loadRegs_run (bytes : List Byte) : (s.loadRegs bytes).run = s.run := rfl
@[simp] theorem loadRegs_config (bytes : List Byte) : (s.loadRegs bytes).config = s.config := rfl
@[simp] theorem loadRegs_draws (bytes : List Byte) : (s.loadRegs bytes).draws = s.draws := rfl
@[simp] theorem loadRegs_result (bytes : List Byte) : (s.loadRegs bytes).result = s.result := rfl

@[simp] theorem drawByte_mem : s.drawByte.2.mem = s.mem := rfl
@[simp] theorem drawByte_v : s.drawByte.2.v = s.v := rfl
@[simp] theorem drawByte_i : s.drawByte.2.i = s.i := rfl
@[simp] theorem drawByte_pc : s.drawByte.2.pc = s.pc := rfl
@[simp] theorem drawByte_sp : s.drawByte.2.sp = s.sp := rfl
@[simp] theorem drawByte_stack : s.drawByte.2.stack = s.stack := rfl
@[simp] theorem drawByte_dt : s.drawByte.2.dt = s.dt := rfl
@[simp] theorem drawByte_st : s.drawByte.2.st = s.st := rfl
@[simp] theorem drawByte_pix : s.drawByte.2.pix = s.pix := rfl
@[simp] theorem drawByte_key : s.drawByte.2.key = s.key := rfl
@[simp] theorem drawByte_run : s.drawByte.2.run = s.run := rfl
@[simp] theorem drawByte_config : s.drawByte.2.config = s.config := rfl
@[simp] theorem drawByte_draws : s.drawByte.2.draws = s.draws + 1 := rfl
@[simp] theorem drawByte_result : s.drawByte.2.result = s.result := rfl
@[simp] theorem drawByte_byte : s.drawByte.1 = Config.drawByte s.draws := rfl

@[simp] theorem stepI_mem (x : Reg) : (s.stepI x).mem = s.mem := rfl
@[simp] theorem stepI_v (x : Reg) : (s.stepI x).v = s.v := rfl
@[simp] theorem stepI_i (x : Reg) : (s.stepI x).i =
    s.i + BitVec.ofNat 16 (bif s.config.loadStoreIncrementsI then x.val + 1 else 0) := rfl
@[simp] theorem stepI_pc (x : Reg) : (s.stepI x).pc = s.pc := rfl
@[simp] theorem stepI_sp (x : Reg) : (s.stepI x).sp = s.sp := rfl
@[simp] theorem stepI_stack (x : Reg) : (s.stepI x).stack = s.stack := rfl
@[simp] theorem stepI_dt (x : Reg) : (s.stepI x).dt = s.dt := rfl
@[simp] theorem stepI_st (x : Reg) : (s.stepI x).st = s.st := rfl
@[simp] theorem stepI_pix (x : Reg) : (s.stepI x).pix = s.pix := rfl
@[simp] theorem stepI_key (x : Reg) : (s.stepI x).key = s.key := rfl
@[simp] theorem stepI_run (x : Reg) : (s.stepI x).run = s.run := rfl
@[simp] theorem stepI_config (x : Reg) : (s.stepI x).config = s.config := rfl
@[simp] theorem stepI_draws (x : Reg) : (s.stepI x).draws = s.draws := rfl
@[simp] theorem stepI_result (x : Reg) : (s.stepI x).result = s.result := rfl

@[simp] theorem writeFlagged_mem (x : Reg) (c : Bool) (b : Byte) : (s.writeFlagged x c b).mem = s.mem := rfl
@[simp] theorem writeFlagged_v (x : Reg) (c : Bool) (b : Byte) :
    (s.writeFlagged x c b).v = (s.v.set regF (flagByte c)).set x b := rfl
@[simp] theorem writeFlagged_i (x : Reg) (c : Bool) (b : Byte) : (s.writeFlagged x c b).i = s.i := rfl
@[simp] theorem writeFlagged_pc (x : Reg) (c : Bool) (b : Byte) : (s.writeFlagged x c b).pc = s.pc := rfl
@[simp] theorem writeFlagged_sp (x : Reg) (c : Bool) (b : Byte) : (s.writeFlagged x c b).sp = s.sp := rfl
@[simp] theorem writeFlagged_stack (x : Reg) (c : Bool) (b : Byte) : (s.writeFlagged x c b).stack = s.stack := rfl
@[simp] theorem writeFlagged_dt (x : Reg) (c : Bool) (b : Byte) : (s.writeFlagged x c b).dt = s.dt := rfl
@[simp] theorem writeFlagged_st (x : Reg) (c : Bool) (b : Byte) : (s.writeFlagged x c b).st = s.st := rfl
@[simp] theorem writeFlagged_pix (x : Reg) (c : Bool) (b : Byte) : (s.writeFlagged x c b).pix = s.pix := rfl
@[simp] theorem writeFlagged_key (x : Reg) (c : Bool) (b : Byte) : (s.writeFlagged x c b).key = s.key := rfl
@[simp] theorem writeFlagged_run (x : Reg) (c : Bool) (b : Byte) : (s.writeFlagged x c b).run = s.run := rfl
@[simp] theorem writeFlagged_config (x : Reg) (c : Bool) (b : Byte) : (s.writeFlagged x c b).config = s.config := rfl
@[simp] theorem writeFlagged_draws (x : Reg) (c : Bool) (b : Byte) : (s.writeFlagged x c b).draws = s.draws := rfl
@[simp] theorem writeFlagged_result (x : Reg) (c : Bool) (b : Byte) : (s.writeFlagged x c b).result = s.result := rfl

end

/-! ### Reset -/

@[simp] theorem resetWith_mem (cfg : Config) : (State.resetWith cfg).mem = [] := rfl
@[simp] theorem resetWith_i (cfg : Config) : (State.resetWith cfg).i = 0 := rfl
@[simp] theorem resetWith_pc (cfg : Config) : (State.resetWith cfg).pc = 0x200 := rfl
@[simp] theorem resetWith_sp (cfg : Config) : (State.resetWith cfg).sp = 0 := rfl
@[simp] theorem resetWith_dt (cfg : Config) : (State.resetWith cfg).dt = 0 := rfl
@[simp] theorem resetWith_st (cfg : Config) : (State.resetWith cfg).st = 0 := rfl
@[simp] theorem resetWith_run (cfg : Config) : (State.resetWith cfg).run = .running := rfl
@[simp] theorem resetWith_config (cfg : Config) : (State.resetWith cfg).config = cfg := rfl
@[simp] theorem resetWith_draws (cfg : Config) : (State.resetWith cfg).draws = 0 := rfl
@[simp] theorem resetWith_result (cfg : Config) : (State.resetWith cfg).result = none := rfl
@[simp] theorem resetWith_v (cfg : Config) : (State.resetWith cfg).v = Vector.replicate 16 0 := rfl
@[simp] theorem resetWith_stack (cfg : Config) : (State.resetWith cfg).stack = Vector.replicate 16 0 := rfl
@[simp] theorem resetWith_key (cfg : Config) : (State.resetWith cfg).key = Vector.replicate 16 false := rfl
@[simp] theorem resetWith_pix (cfg : Config) : (State.resetWith cfg).pix = blankDisplay := rfl

/-! ### Reading a register after an update -/

@[simp] theorem readV_setI (s : State) (a : Word) (x : Reg) : (s.setI a).readV x = s.readV x := rfl
@[simp] theorem readV_setPc (s : State) (a : Word) (x : Reg) : (s.setPc a).readV x = s.readV x := rfl
@[simp] theorem readV_advance (s : State) (x : Reg) : s.advance.readV x = s.readV x := rfl
@[simp] theorem readV_setRun (s : State) (r : RunState) (x : Reg) : (s.setRun r).readV x = s.readV x := rfl
@[simp] theorem readV_report (s : State) (r : StepResult) (x : Reg) : (s.report r).readV x = s.readV x := rfl
@[simp] theorem readV_setPix (s : State) (d : Display) (x : Reg) : (s.setPix d).readV x = s.readV x := rfl
@[simp] theorem readV_setDt (s : State) (b : Byte) (x : Reg) : (s.setDt b).readV x = s.readV x := rfl
@[simp] theorem readV_setSt (s : State) (b : Byte) (x : Reg) : (s.setSt b).readV x = s.readV x := rfl

theorem readV_writeV (s : State) (x y : Reg) (b : Byte) :
    (s.writeV x b).readV y = if y = x then b else s.readV y := by
  simp only [State.readV, State.writeV, Fin.getElem_fin, Vector.getElem_set, Fin.ext_iff]
  split <;> split <;> first | rfl | omega

@[simp] theorem readV_writeV_self (s : State) (x : Reg) (b : Byte) : (s.writeV x b).readV x = b := by
  simp [readV_writeV]

theorem readV_writeV_other (s : State) {x y : Reg} (h : y ≠ x) (b : Byte) :
    (s.writeV x b).readV y = s.readV y := by
  simp [readV_writeV, h]

/-- Flag first, result second (R111): the destination keeps the result, VF keeps the flag unless it is the
destination. -/
theorem readV_writeFlagged (s : State) (x y : Reg) (c : Bool) (b : Byte) :
    (s.writeFlagged x c b).readV y = if y = x then b else if y = regF then flagByte c else s.readV y := by
  simp only [State.writeFlagged, readV_writeV]

theorem readV_loadRegs (s : State) (bytes : List Byte) (y : Reg) :
    (s.loadRegs bytes).readV y = bytes.getD y.val (s.readV y) := by
  simp [State.readV]

/-! ### The call stack -/

theorem push_eq_none (s : State) (a : Word) : s.push a = none ↔ s.sp.val = 16 := by
  have := s.sp.isLt
  unfold State.push; split <;> simp <;> omega

/-- Everything a push does. -/
theorem push_eq_some {s t : State} {a : Word} (h : s.push a = some t) :
    ∃ hs : s.sp.val < 16, t = { s with stack := s.stack.set s.sp.val a, sp := ⟨s.sp.val + 1, by omega⟩ } := by
  unfold State.push at h
  split at h
  · exact ⟨‹_›, by simpa using h.symm⟩
  · simp at h

theorem pop_eq_none (s : State) : s.pop = none ↔ s.sp.val = 0 := by
  unfold State.pop; split <;> simp <;> omega

/-- Everything a pop does. -/
theorem pop_eq_some {s t : State} {a : Word} (h : s.pop = some (a, t)) :
    ∃ hs : 0 < s.sp.val, a = s.stack[s.sp.val - 1] ∧ t = { s with sp := ⟨s.sp.val - 1, by omega⟩ } := by
  unfold State.pop at h
  split at h
  · simp only [Option.some.injEq, Prod.mk.injEq] at h
    exact ⟨‹_›, h.1.symm, h.2.symm⟩
  · simp at h

/-! ### Ending an instruction -/

@[simp] theorem complete_eq (d : Bool) (s : State) : complete d s = .next (s.report ⟨.ok, d⟩) := rfl

/-- Everything a fatal error does (R172). -/
theorem raise_eq (e : FatalError) (s : State) :
    raise e s = .next { s with run := .halted e, result := some ⟨.fatal e, false⟩ } := rfl

end Sys2Proof.Laws
end

