-- ==== Sys2Proof/Laws/Memory.lean ====
section
/-! SUPPORT. The laws of memory: read after write, the canonical form kept by every memory operation and unique, and what
the checked operations on a state answer. -/

namespace Sys2Proof.Laws

open Sys2Proof.Machine

variable {font : Vector Byte 80}

/-! ### The canonical form -/

/-- One cell listed first. -/
theorem wfFrom_cons {lo a : Nat} {v : Byte} {m : Memory} :
    Memory.wfFrom font lo ((a, v) :: m) = true ↔
      lo ≤ a ∧ a < memSize ∧ v ≠ unlistedByte font a ∧ Memory.wfFrom font (a + 1) m = true := by
  simp [Memory.wfFrom, and_assoc]

theorem wfFrom_mono {lo lo' : Nat} {m : Memory} (h : lo' ≤ lo) (hw : Memory.wfFrom font lo m = true) :
    Memory.wfFrom font lo' m = true := by
  cases m with
  | nil => rfl
  | cons c m =>
    obtain ⟨a, v⟩ := c
    rw [wfFrom_cons] at hw ⊢
    exact ⟨by omega, hw.2⟩

/-- Below the first listed address memory reads as its reset content. -/
theorem read_of_wfFrom {lo a : Nat} {m : Memory} (hw : Memory.wfFrom font lo m = true) (h : a < lo) :
    Memory.read font m a = unlistedByte font a := by
  induction m generalizing lo with
  | nil => rfl
  | cons c m ih =>
    obtain ⟨b, w⟩ := c
    rw [wfFrom_cons] at hw
    have hne : a ≠ b := by omega
    simp only [Memory.read, hne, if_false]
    exact ih hw.2.2.2 (by omega)

theorem wfFrom_write {lo a : Nat} {m : Memory} (v : Byte) (hw : Memory.wfFrom font lo m = true) (hlo : lo ≤ a)
    (ha : a < memSize) : Memory.wfFrom font lo (Memory.write font m a v) = true := by
  induction m generalizing lo with
  | nil =>
    simp only [Memory.write]
    split
    · rfl
    · rw [wfFrom_cons]; exact ⟨hlo, ha, ‹_›, rfl⟩
  | cons c m ih =>
    obtain ⟨b, w⟩ := c
    have hc := wfFrom_cons.1 hw
    simp only [Memory.write]
    split
    · split
      · exact hw
      · rw [wfFrom_cons]
        exact ⟨hlo, ha, ‹_›, wfFrom_cons.2 ⟨by omega, hc.2⟩⟩
    · split
      · split
        · exact wfFrom_mono (by omega) hc.2.2.2
        · rw [wfFrom_cons]
          subst_vars
          exact ⟨hlo, ha, ‹_›, hc.2.2.2⟩
      · rw [wfFrom_cons]
        exact ⟨hc.1, hc.2.1, hc.2.2.1, ih hc.2.2.2 (by omega)⟩

/-- A write inside MEM keeps the canonical form. -/
theorem wf_write {m : Memory} {a : Nat} (v : Byte) (hw : Memory.wf font m = true) (ha : a < memSize) :
    Memory.wf font (Memory.write font m a v) = true :=
  wfFrom_write v hw (Nat.zero_le a) ha

/-- A block write inside MEM keeps the canonical form. -/
theorem wf_writeBytes {m : Memory} {a : Nat} (bytes : List Byte) (hw : Memory.wf font m = true)
    (ha : a + bytes.length ≤ memSize) : Memory.wf font (Memory.writeBytes font m a bytes) = true := by
  induction bytes generalizing m a with
  | nil => exact hw
  | cons v vs ih =>
    simp only [List.length_cons] at ha
    exact ih (wf_write v hw (by omega)) (by omega)

theorem wf_nil : Memory.wf font [] = true := rfl

/-! ### Read after write -/

theorem read_write_of_wfFrom {lo : Nat} {m : Memory} (hw : Memory.wfFrom font lo m = true) (a b : Nat) (v : Byte) :
    Memory.read font (Memory.write font m a v) b = if b = a then v else Memory.read font m b := by
  induction m generalizing lo with
  | nil =>
    simp only [Memory.write]
    by_cases hv : v = unlistedByte font a
    · by_cases hb : b = a <;> simp [hv, hb, Memory.read]
    · simp only [hv, if_false, Memory.read]
  | cons c m ih =>
    obtain ⟨k, w⟩ := c
    have hc := wfFrom_cons.1 hw
    have hm : ∀ {j}, j ≤ k → Memory.read font m j = unlistedByte font j := fun hj =>
      read_of_wfFrom hc.2.2.2 (by omega)
    simp only [Memory.write]
    split
    · rename_i hlt
      by_cases hv : v = unlistedByte font a
      · by_cases hb : b = a
        · have hne : a ≠ k := by omega
          simp [hv, hb, Memory.read, hne, hm hlt.le]
        · simp [hv, hb]
      · simp only [hv, if_false, Memory.read]
    · split
      · rename_i _ hak
        subst hak
        by_cases hv : v = unlistedByte font a
        · by_cases hb : b = a
          · simp [hv, hb, hm le_rfl]
          · simp [hv, hb, Memory.read]
        · by_cases hb : b = a <;> simp [hv, hb, Memory.read]
      · rename_i _ hak
        simp only [Memory.read]
        by_cases hbk : b = k
        · have : b ≠ a := by omega
          simp [hbk, Ne.symm hak]
        · simp only [hbk, if_false]
          exact ih hc.2.2.2

/-- The byte written is the byte read there, and every other address reads as before. -/
theorem read_write {m : Memory} (hw : Memory.wf font m = true) (a b : Nat) (v : Byte) :
    Memory.read font (Memory.write font m a v) b = if b = a then v else Memory.read font m b :=
  read_write_of_wfFrom hw a b v

/-- An address that is not written reads as before, whatever the form of the memory. -/
theorem read_write_other (m : Memory) {a b : Nat} (h : b ≠ a) (v : Byte) :
    Memory.read font (Memory.write font m a v) b = Memory.read font m b := by
  induction m with
  | nil =>
    simp only [Memory.write]
    split <;> simp [Memory.read, h]
  | cons c m ih =>
    obtain ⟨k, w⟩ := c
    simp only [Memory.write]
    split
    · split <;> simp [Memory.read, h]
    · split
      · rename_i _ hak
        subst hak
        split <;> simp [Memory.read, h]
      · simp only [Memory.read, ih]

/-- An address outside a block that is written reads as before. -/
theorem read_writeBytes_other (m : Memory) {a b : Nat} (bytes : List Byte) (h : b < a ∨ a + bytes.length ≤ b) :
    Memory.read font (Memory.writeBytes font m a bytes) b = Memory.read font m b := by
  induction bytes generalizing m a with
  | nil => rfl
  | cons v vs ih =>
    simp only [List.length_cons] at h
    simp only [Memory.writeBytes]
    rw [ih _ (by omega), read_write_other _ (by omega)]

/-- Byte j of a block that is written reads back at address a + j. -/
theorem read_writeBytes {m : Memory} {a j : Nat} {bytes : List Byte} (hw : Memory.wf font m = true)
    (ha : a + bytes.length ≤ memSize) (hj : j < bytes.length) :
    Memory.read font (Memory.writeBytes font m a bytes) (a + j) = bytes[j] := by
  induction bytes generalizing m a j with
  | nil => simp at hj
  | cons v vs ih =>
    simp only [List.length_cons] at ha hj
    simp only [Memory.writeBytes]
    cases j with
    | zero =>
      rw [read_writeBytes_other _ _ (by omega), read_write hw]
      simp
    | succ j =>
      have := ih (m := Memory.write font m a v) (a := a + 1) (j := j) (wf_write v hw (by omega)) (by omega) (by omega)
      rw [show a + (j + 1) = a + 1 + j by omega, this]
      simp

@[simp] theorem length_readBytes (m : Memory) (a n : Nat) : (Memory.readBytes font m a n).length = n := by
  induction n generalizing a with
  | zero => rfl
  | succ n ih => simp [Memory.readBytes, ih]

theorem getElem_readBytes (m : Memory) (a : Nat) {n j : Nat} (h : j < (Memory.readBytes font m a n).length) :
    (Memory.readBytes font m a n)[j] = Memory.read font m (a + j) := by
  induction n generalizing a j with
  | zero => simp [Memory.readBytes] at h
  | succ n ih =>
    cases j with
    | zero => rfl
    | succ j =>
      simp only [Memory.readBytes, List.getElem_cons_succ]
      rw [ih, show a + 1 + j = a + (j + 1) by omega]

/-! ### The checked operations on a state -/

theorem inBounds_iff (a n : Nat) : inBounds a n = true ↔ n = 0 ∨ a + n ≤ memSize := by
  cases n <;> simp [inBounds, memSize]; omega

/-- Everything a checked read answers. -/
theorem readBytes_eq_some {s : State} {a n : Nat} {bytes : List Byte} :
    s.readBytes a n = some bytes ↔ inBounds a n = true ∧ bytes = Memory.readBytes s.config.font s.mem a n := by
  unfold State.readBytes
  by_cases h : inBounds a n = true
  · simp only [h, if_true, Option.some.injEq, true_and]
    exact eq_comm
  · simp [h]

theorem readBytes_eq_none {s : State} {a n : Nat} : s.readBytes a n = none ↔ inBounds a n = false := by
  unfold State.readBytes
  split <;> simp_all

/-- Everything a checked write answers. -/
theorem writeBytes_eq_some {s t : State} {a : Nat} {bytes : List Byte} :
    s.writeBytes a bytes = some t ↔
      inBounds a bytes.length = true ∧ t = { s with mem := Memory.writeBytes s.config.font s.mem a bytes } := by
  unfold State.writeBytes
  by_cases h : inBounds a bytes.length = true
  · simp only [h, if_true, Option.some.injEq, true_and]
    exact eq_comm
  · simp [h]

theorem writeBytes_eq_none {s : State} {a : Nat} {bytes : List Byte} :
    s.writeBytes a bytes = none ↔ inBounds a bytes.length = false := by
  unfold State.writeBytes
  split <;> simp_all

theorem readWord_eq_some {s : State} {a : Nat} {w : Word} :
    s.readWord a = some w ↔ a ≤ 4094 ∧ w = s.byteAt a ++ s.byteAt (a + 1) := by
  unfold State.readWord
  have := inBounds_iff a 2
  by_cases h : inBounds a 2 = true
  · have hb : a ≤ 4094 := by
      have := this.1 h
      simp [memSize] at this
      omega
    simp [h, hb, eq_comm]
  · have hb : ¬ a ≤ 4094 := by
      intro hle
      exact h (this.2 (.inr (by simp [memSize]; omega)))
    simp [h, hb]

theorem readWord_eq_none {s : State} {a : Nat} : s.readWord a = none ↔ 4095 ≤ a := by
  rw [Option.eq_none_iff_forall_ne_some]
  constructor
  · intro h
    by_contra hlt
    exact h _ (readWord_eq_some.2 ⟨by omega, rfl⟩)
  · intro h w hw
    have := (readWord_eq_some.1 hw).1
    omega

end Sys2Proof.Laws
end

