-- ==== Sys2Proof/Laws/Display.lean ====
section
/-! SUPPORT. The laws of the display: one cell after a toggle, and what drawing a list of cells does. -/

namespace Sys2Proof.Laws

open Sys2Proof.Machine

@[simp] theorem cell_blankDisplay (x : Fin 64) (y : Fin 32) : blankDisplay.cell x y = false := by
  simp [blankDisplay, Display.cell]

/-- A toggle flips its own cell and no other. -/
theorem cell_toggle (d : Display) (x x' : Fin 64) (y y' : Fin 32) :
    (d.toggle x y).cell x' y' = if x' = x ∧ y' = y then !d.cell x y else d.cell x' y' := by
  unfold Display.toggle Display.cell
  simp only [Fin.getElem_fin, Vector.getElem_set, Fin.ext_iff]
  by_cases hy : y.val = y'.val
  · by_cases hx : x.val = x'.val
    · simp [hx, hy]
    · simp [hx, hy, Ne.symm hx]
  · simp [hy, Ne.symm hy]

/-- Two displays with the same cells are the same display. -/
theorem display_ext {d e : Display} (h : ∀ x y, d.cell x y = e.cell x y) : d = e := by
  apply Vector.ext
  intro y hy
  apply Vector.ext
  intro x hx
  exact h ⟨x, hx⟩ ⟨y, hy⟩

@[simp] theorem drawCells_nil (d : Display) (c : Bool) : drawCells [] d c = (d, c) := rfl

theorem drawCells_append (xs ys : List (Fin 64 × Fin 32)) (d : Display) (c : Bool) :
    drawCells (xs ++ ys) d c = drawCells ys (drawCells xs d c).1 (drawCells xs d c).2 := by
  induction xs generalizing d c with
  | nil => rfl
  | cons p xs ih => obtain ⟨x, y⟩ := p; exact ih _ _

/-- A cell that is not drawn keeps its value. -/
theorem cell_drawCells_of_not_mem (cells : List (Fin 64 × Fin 32)) (d : Display) (c : Bool) {x : Fin 64} {y : Fin 32}
    (h : (x, y) ∉ cells) : (drawCells cells d c).1.cell x y = d.cell x y := by
  induction cells generalizing d c with
  | nil => rfl
  | cons p cells ih =>
    obtain ⟨a, b⟩ := p
    simp only [List.mem_cons, Prod.mk.injEq, not_or] at h
    simp only [drawCells]
    rw [ih _ _ h.2, cell_toggle, if_neg h.1]

theorem mem_rowCells {x0 y0 row : Byte} {r : Nat} {p : Fin 64 × Fin 32} :
    p ∈ rowCells x0 y0 row r ↔ ∃ c, c < 8 ∧ spriteBit row c = true ∧ p = (spriteColumn x0 c, spriteRow y0 r) := by
  simp only [rowCells, List.mem_map, List.mem_filter, List.mem_range]
  exact ⟨fun ⟨c, ⟨h, h'⟩, e⟩ => ⟨c, h, h', e.symm⟩, fun ⟨c, h, h', e⟩ => ⟨c, ⟨h, h'⟩, e.symm⟩⟩

/-- The cells of a sprite: the set bits of its rows, at R147's coordinates. -/
theorem mem_spriteCells {x0 y0 : Byte} {rows : List Byte} {k : Nat} {p : Fin 64 × Fin 32} :
    p ∈ spriteCells x0 y0 rows k ↔
      ∃ r, ∃ hr : r < rows.length, ∃ c, c < 8 ∧ spriteBit rows[r] c = true ∧
        p = (spriteColumn x0 c, spriteRow y0 (k + r)) := by
  induction rows generalizing k with
  | nil => simp [spriteCells]
  | cons row rows ih =>
    simp only [spriteCells, List.mem_append, mem_rowCells, ih]
    constructor
    · rintro (⟨c, hc, hb, rfl⟩ | ⟨r, hr, c, hc, hb, rfl⟩)
      · exact ⟨0, by simp, c, hc, hb, rfl⟩
      · exact ⟨r + 1, by simpa using hr, c, hc, by simpa using hb, by rw [show k + 1 + r = k + (r + 1) by omega]⟩
    · rintro ⟨r, hr, c, hc, hb, rfl⟩
      cases r with
      | zero => exact .inl ⟨c, hc, by simpa using hb, rfl⟩
      | succ r =>
        exact .inr ⟨r, by simpa using hr, c, hc, by simpa using hb, by rw [show k + 1 + r = k + (r + 1) by omega]⟩

end Sys2Proof.Laws
end

