-- ==== Sys2Proof/Laws/PerInstr.lean ====
section
/-! SUPPORT. The per-instruction family EncodesPattern: the word of an instruction has, under the mask of its row of R63,
exactly the fixed digits of its pattern. -/

namespace Sys2Proof.Laws.EncodesPattern

/-- The encoded word agrees with every fixed digit of the instruction's pattern (R62). -/
def Statement (i : Instr) : Prop := encode i &&& i.row.mask = i.row.value

theorem cls : Statement .cls := rfl
theorem ret : Statement .ret := rfl

theorem jpNnn (nnn : Imm12) : Statement (.jpNnn nnn) := (formatA_mask _ nnn).trans rfl
theorem callNnn (nnn : Imm12) : Statement (.callNnn nnn) := (formatA_mask _ nnn).trans rfl
theorem ldINnn (nnn : Imm12) : Statement (.ldINnn nnn) := (formatA_mask _ nnn).trans rfl
theorem jpV0Nnn (nnn : Imm12) : Statement (.jpV0Nnn nnn) := (formatA_mask _ nnn).trans rfl

theorem seVxNn (x : Reg) (nn : Byte) : Statement (.seVxNn x nn) := (formatI_mask_top _ x nn).trans rfl
theorem sneVxNn (x : Reg) (nn : Byte) : Statement (.sneVxNn x nn) := (formatI_mask_top _ x nn).trans rfl
theorem ldVxNn (x : Reg) (nn : Byte) : Statement (.ldVxNn x nn) := (formatI_mask_top _ x nn).trans rfl
theorem addVxNn (x : Reg) (nn : Byte) : Statement (.addVxNn x nn) := (formatI_mask_top _ x nn).trans rfl
theorem rndVxNn (x : Reg) (nn : Byte) : Statement (.rndVxNn x nn) := (formatI_mask_top _ x nn).trans rfl

theorem seVxVy (x y : Reg) : Statement (.seVxVy x y) := (formatR_mask _ x y _).trans rfl
theorem ldVxVy (x y : Reg) : Statement (.ldVxVy x y) := (formatR_mask _ x y _).trans rfl
theorem orVxVy (x y : Reg) : Statement (.orVxVy x y) := (formatR_mask _ x y _).trans rfl
theorem andVxVy (x y : Reg) : Statement (.andVxVy x y) := (formatR_mask _ x y _).trans rfl
theorem xorVxVy (x y : Reg) : Statement (.xorVxVy x y) := (formatR_mask _ x y _).trans rfl
theorem addVxVy (x y : Reg) : Statement (.addVxVy x y) := (formatR_mask _ x y _).trans rfl
theorem subVxVy (x y : Reg) : Statement (.subVxVy x y) := (formatR_mask _ x y _).trans rfl
theorem shrVx (x y : Reg) : Statement (.shrVx x y) := (formatR_mask _ x y _).trans rfl
theorem subnVxVy (x y : Reg) : Statement (.subnVxVy x y) := (formatR_mask _ x y _).trans rfl
theorem shlVx (x y : Reg) : Statement (.shlVx x y) := (formatR_mask _ x y _).trans rfl
theorem sneVxVy (x y : Reg) : Statement (.sneVxVy x y) := (formatR_mask _ x y _).trans rfl

theorem drwVxVyN (x y : Reg) (n : Nat) : Statement (.drwVxVyN x y n) := (formatR_mask_top _ x y _).trans rfl

theorem skpVx (x : Reg) : Statement (.skpVx x) := (formatI_mask _ x _).trans rfl
theorem sknpVx (x : Reg) : Statement (.sknpVx x) := (formatI_mask _ x _).trans rfl
theorem ldVxDt (x : Reg) : Statement (.ldVxDt x) := (formatI_mask _ x _).trans rfl
theorem ldVxK (x : Reg) : Statement (.ldVxK x) := (formatI_mask _ x _).trans rfl
theorem ldDtVx (x : Reg) : Statement (.ldDtVx x) := (formatI_mask _ x _).trans rfl
theorem ldStVx (x : Reg) : Statement (.ldStVx x) := (formatI_mask _ x _).trans rfl
theorem addIVx (x : Reg) : Statement (.addIVx x) := (formatI_mask _ x _).trans rfl
theorem ldFVx (x : Reg) : Statement (.ldFVx x) := (formatI_mask _ x _).trans rfl
theorem ldBVx (x : Reg) : Statement (.ldBVx x) := (formatI_mask _ x _).trans rfl
theorem ldMiVx (x : Reg) : Statement (.ldMiVx x) := (formatI_mask _ x _).trans rfl
theorem ldVxMi (x : Reg) : Statement (.ldVxMi x) := (formatI_mask _ x _).trans rfl

end Sys2Proof.Laws.EncodesPattern
end

