-- ==== Sys2Proof/Laws/Step.lean ====
section
/-! SUPPORT. What a step can do, said once: every instruction answers a next state, an instruction either completes from
the pre-instruction state or raises from it, and the arms of the step. -/

namespace Sys2Proof.Laws

open Sys2Proof.Machine

/-! ### What the memory instructions answer -/

theorem execLdBVx_cases (x : Reg) (s : State) :
    (inBounds (s.dataAddress 0) 3 = true ∧ execLdBVx x s = complete false (State.advance { s with
        mem := Memory.writeBytes s.config.font s.mem (s.dataAddress 0) (bcdDigits (s.readV x)) })) ∨
      (inBounds (s.dataAddress 0) 3 = false ∧ execLdBVx x s = raise .memoryBoundsError s) := by
  unfold execLdBVx
  cases h : s.writeBytes (s.dataAddress 0) (bcdDigits (s.readV x)) with
  | none => exact .inr ⟨writeBytes_eq_none.1 h, rfl⟩
  | some t =>
    obtain ⟨hb, rfl⟩ := writeBytes_eq_some.1 h
    exact .inl ⟨hb, rfl⟩

theorem length_firstRegs (s : State) (x : Reg) : (s.firstRegs x).length = x.val + 1 := by
  simp [State.firstRegs]

theorem execLdMiVx_cases (x : Reg) (s : State) :
    (inBounds (s.dataAddress 0) (x.val + 1) = true ∧
        execLdMiVx x s = complete false (State.advance (State.stepI { s with
          mem := Memory.writeBytes s.config.font s.mem (s.dataAddress 0) (s.firstRegs x) } x))) ∨
      (inBounds (s.dataAddress 0) (x.val + 1) = false ∧ execLdMiVx x s = raise .memoryBoundsError s) := by
  unfold execLdMiVx
  rw [← length_firstRegs s x]
  cases h : s.writeBytes (s.dataAddress 0) (s.firstRegs x) with
  | none => exact .inr ⟨writeBytes_eq_none.1 h, rfl⟩
  | some t =>
    obtain ⟨hb, rfl⟩ := writeBytes_eq_some.1 h
    exact .inl ⟨hb, rfl⟩

theorem execLdVxMi_cases (x : Reg) (s : State) :
    (inBounds (s.dataAddress 0) (x.val + 1) = true ∧
        execLdVxMi x s = complete false (((s.loadRegs
          (Memory.readBytes s.config.font s.mem (s.dataAddress 0) (x.val + 1))).stepI x).advance)) ∨
      (inBounds (s.dataAddress 0) (x.val + 1) = false ∧ execLdVxMi x s = raise .memoryBoundsError s) := by
  unfold execLdVxMi
  cases h : s.readBytes (s.dataAddress 0) (x.val + 1) with
  | none => exact .inr ⟨readBytes_eq_none.1 h, rfl⟩
  | some bytes =>
    obtain ⟨hb, rfl⟩ := readBytes_eq_some.1 h
    exact .inl ⟨hb, rfl⟩

/-- What DXYN draws: the display and the collision flag. -/
def drawn (s : State) (x y : Reg) (n : Nat) : Display × Bool :=
  drawCells (spriteCells (s.readV x) (s.readV y) (Memory.readBytes s.config.font s.mem (s.dataAddress 0) n) 0) s.pix false

theorem execDrwVxVyN_cases (x y : Reg) (n : Nat) (s : State) :
    (inBounds (s.dataAddress 0) n = true ∧ execDrwVxVyN x y n s =
        complete true (((s.setPix (drawn s x y n).1).writeV regF (flagByte (drawn s x y n).2)).advance)) ∨
      (inBounds (s.dataAddress 0) n = false ∧ execDrwVxVyN x y n s = raise .memoryBoundsError s) := by
  unfold execDrwVxVyN
  cases h : s.readBytes (s.dataAddress 0) n with
  | none => exact .inr ⟨readBytes_eq_none.1 h, rfl⟩
  | some bytes =>
    obtain ⟨hb, rfl⟩ := readBytes_eq_some.1 h
    exact .inl ⟨hb, rfl⟩

/-! ### What call and return answer -/

theorem execCallNnn_cases (nnn : Imm12) (s : State) :
    (∃ h : s.sp.val < 16, execCallNnn nnn s = complete false (State.setPc { s with
        stack := s.stack.set s.sp.val s.pc, sp := ⟨s.sp.val + 1, by omega⟩ } (addressOf nnn))) ∨
      (s.sp.val = 16 ∧ execCallNnn nnn s = raise .stackOverflowError s) := by
  unfold execCallNnn
  cases h : s.push s.pc with
  | none => exact .inr ⟨(push_eq_none s s.pc).1 h, rfl⟩
  | some t =>
    obtain ⟨hs, rfl⟩ := push_eq_some h
    exact .inl ⟨hs, rfl⟩

theorem execRet_cases (s : State) :
    (∃ h : 0 < s.sp.val, execRet s = complete false (State.setPc { s with sp := ⟨s.sp.val - 1, by omega⟩ }
        (s.stack[s.sp.val - 1] + 2))) ∨
      (s.sp.val = 0 ∧ execRet s = raise .stackUnderflowError s) := by
  unfold execRet
  cases h : s.pop with
  | none => exact .inr ⟨(pop_eq_none s).1 h, rfl⟩
  | some p =>
    obtain ⟨a, t⟩ := p
    obtain ⟨hs, rfl, rfl⟩ := pop_eq_some h
    exact .inl ⟨hs, rfl⟩

/-! ### The arms of the step -/

theorem step_halted {s : State} {e : FatalError} (h : s.run = .halted e) : step s = haltedStep e s := by
  simp [step, cycle, h]

theorem step_waiting {s : State} {x : Reg} (h : s.run = .waitingForKey x) : step s = pollKey x s := by
  simp [step, cycle, h]

theorem step_running {s : State} (h : s.run = .running) : step s = runningStep s := by
  simp [step, cycle, h]

theorem fetchWord_eq_some {s : State} {op : Word} :
    fetchWord s = some op ↔ s.pc.toNat ≤ 4094 ∧ op = s.byteAt s.pc.toNat ++ s.byteAt (s.pc.toNat + 1) :=
  readWord_eq_some

theorem fetchWord_eq_none {s : State} : fetchWord s = none ↔ 4095 ≤ s.pc.toNat :=
  readWord_eq_none

/-- The four ways a running step goes. -/
theorem runningStep_cases (s : State) :
    (4095 ≤ s.pc.toNat ∧ runningStep s = raise .memoryBoundsError s) ∨
      (∃ op i, fetchWord s = some op ∧ decodeWord op = some i ∧ runningStep s = exec i s) ∨
      (∃ op, fetchWord s = some op ∧ decodeWord op = none ∧ runningStep s = execUnmatched s) := by
  unfold runningStep
  cases h : fetchWord s with
  | none => exact .inl ⟨fetchWord_eq_none.1 h, rfl⟩
  | some op =>
    cases hd : decodeWord op with
    | none => exact .inr (.inr ⟨op, rfl, hd, by simp [hd]⟩)
    | some i => exact .inr (.inl ⟨op, i, rfl, hd, by simp [hd]⟩)

/-- The poll finds the least key that is pressed, or there is none. -/
theorem lowestKey_eq_none {s : State} : s.lowestKey = none ↔ ∀ k, s.keyPressed k = false := by
  simp [State.lowestKey]

end Sys2Proof.Laws
end

