-- ==== Sys2Proof/Tests/Slice0.lean ====
section
/-! SUPPORT. Tests of one step each, their expected results from 95_test_vectors.md (T00 to T30) and the encoding patterns
of 30 R63, and the witnesses that the hypotheses of the statements can be met, at the ends of their ranges. -/

namespace Sys2Proof.Tests

open Sys2Proof.Machine

/-! ### Helpers -/

/-- Whether there is a next state. -/
def goesOn (o : Answer) : Bool :=
  match o with
  | .next _ => true
  | _ => false

/-- The next state, or s. -/
def nextOr (s : State) (o : Answer) : State :=
  match o with
  | .next t => t
  | _ => s

theorem eq_next {o : Answer} (s : State) (h : goesOn o = true) : o = .next (nextOr s o) := by
  cases o <;> simp_all [goesOn, nextOr]

/-- The state after one step with the word w under the PC of s. -/
def after (w : Nat) (s : State) : State := nextOr s (step (s.withFetchWord 16 w))

/-- The reset state with some registers set. -/
def withV (rs : List (Reg × Byte)) : State := rs.foldl (fun s p => s.writeV p.1 p.2) State.reset

/-- With bytes stored from address a on. -/
def storing (a : Nat) (bytes : List Byte) (s : State) : State :=
  { s with mem := Memory.writeBytes s.config.font s.mem a bytes }

/-- With the policy LOAD_STORE_INCREMENTS_I. -/
def policy (b : Bool) (s : State) : State := { s with config := { s.config with loadStoreIncrementsI := b } }

/-- With n entries on the stack, the top one being a. -/
def stacked (n : Fin 17) (a : Word) (s : State) : State :=
  { s with sp := n, stack := Vector.ofFn fun k => if k.val + 1 = n.val then a else 0 }

/-- With the named cells on. -/
def lit (cells : List (Fin 64 × Fin 32)) (s : State) : State :=
  { s with pix := cells.foldl (fun d p => d.toggle p.1 p.2) blankDisplay }

/-- With the named keys pressed. -/
def pressing (ks : List Reg) (s : State) : State := ks.foldl (fun t k => setKey k true t) s

/-- Status Ok. -/
def okay (displayChanged : Bool) : Option StepResult := some ⟨.ok, displayChanged⟩

/-- Status Fatal. -/
def fatal (e : FatalError) : Option StepResult := some ⟨.fatal e, false⟩

/-! ### WellFormed refuses what its check is for -/

theorem test_wf_refuses_sixteen_rows : (Instr.drwVxVyN 0 1 16).wf = false := by decide
theorem test_wf_accepts_fifteen_rows : (Instr.drwVxVyN 0 1 15).wf = true := by decide

/-! ### Decoding: every row of R63, its word written out from the pattern -/

theorem test_decode_families_0_to_7 :
    decodeWord 0b0000000011100000#16 = some .cls ∧ decodeWord 0b0000000011101110#16 = some .ret ∧
    decodeWord 0b0001_1010_1011_1100#16 = some (.jpNnn 0xABC) ∧
    decodeWord 0b0010_0011_0000_0001#16 = some (.callNnn 0x301) ∧
    decodeWord 0b0011_1010_0100_0010#16 = some (.seVxNn 10 0x42) ∧
    decodeWord 0b0100_1011_0100_0011#16 = some (.sneVxNn 11 0x43) ∧
    decodeWord 0b0101_0001_0010_0000#16 = some (.seVxVy 1 2) ∧
    decodeWord 0b0110_1010_0111_1111#16 = some (.ldVxNn 10 0x7F) ∧
    decodeWord 0b0111_0001_0000_0101#16 = some (.addVxNn 1 0x05) := by decide

theorem test_decode_family_8 :
    decodeWord 0b1000_0001_0010_0000#16 = some (.ldVxVy 1 2) ∧ decodeWord 0b1000_0001_0010_0001#16 = some (.orVxVy 1 2) ∧
    decodeWord 0b1000_0001_0010_0010#16 = some (.andVxVy 1 2) ∧ decodeWord 0b1000_0001_0010_0011#16 = some (.xorVxVy 1 2) ∧
    decodeWord 0b1000_0001_0010_0100#16 = some (.addVxVy 1 2) ∧ decodeWord 0b1000_0001_0010_0101#16 = some (.subVxVy 1 2) ∧
    decodeWord 0b1000_0011_0000_0110#16 = some (.shrVx 3 0) ∧ decodeWord 0b1000_0001_0010_0111#16 = some (.subnVxVy 1 2) ∧
    decodeWord 0b1000_0011_0000_1110#16 = some (.shlVx 3 0) := by decide

theorem test_decode_families_9_to_E :
    decodeWord 0b1001_0001_0010_0000#16 = some (.sneVxVy 1 2) ∧
    decodeWord 0b1010_0010_1111_0000#16 = some (.ldINnn 0x2F0) ∧
    decodeWord 0b1011_0011_0000_0100#16 = some (.jpV0Nnn 0x304) ∧
    decodeWord 0b1100_0011_0000_1111#16 = some (.rndVxNn 3 0x0F) ∧
    decodeWord 0b1101_0001_0010_0101#16 = some (.drwVxVyN 1 2 5) ∧
    decodeWord 0b1110_0010_1001_1110#16 = some (.skpVx 2) ∧ decodeWord 0b1110_0010_1010_0001#16 = some (.sknpVx 2) := by
  decide

theorem test_decode_family_F :
    decodeWord 0b1111_0101_0000_0111#16 = some (.ldVxDt 5) ∧ decodeWord 0b1111_0011_0000_1010#16 = some (.ldVxK 3) ∧
    decodeWord 0b1111_0101_0001_0101#16 = some (.ldDtVx 5) ∧ decodeWord 0b1111_0101_0001_1000#16 = some (.ldStVx 5) ∧
    decodeWord 0b1111_0010_0001_1110#16 = some (.addIVx 2) ∧ decodeWord 0b1111_0100_0010_1001#16 = some (.ldFVx 4) ∧
    decodeWord 0b1111_0000_0011_0011#16 = some (.ldBVx 0) ∧ decodeWord 0b1111_0010_0101_0101#16 = some (.ldMiVx 2) ∧
    decodeWord 0b1111_0010_0110_0101#16 = some (.ldVxMi 2) := by decide

/-- T20, lines 4 to 16. -/
theorem test_decode_unmatched : ([0x0000, 0x0123, 0x00E1, 0x00EF, 0x5121, 0x9121, 0x8018, 0x801F, 0xE09F, 0xE000, 0xF000,
    0xF075, 0xF0FF].all fun w => (decodeWord w).isNone) = true := by decide

theorem test_decode_bytes : (decode [0x12, 0x34, 0x00]).toOption = some (.jpNnn 0x234, [0x00]) ∧
    (decode [0x00, 0x00]).toOption = none ∧ decodeTableWord 16 0x1234 = some (.jpNnn 0x234) ∧
    decodeTableWord 16 0x0000 = none := by decide
theorem test_decode_truncated : decode [0x12] = .error .truncated ∧ decode [] = .error .truncated := ⟨rfl, rfl⟩

theorem test_encode : encode (.subVxVy 1 2) = 0x8125 ∧ encode (.drwVxVyN 1 2 5) = 0xD125 ∧ encode (.ldINnn 0x2F0) = 0xA2F0 ∧
    encode (.skpVx 2) = 0xE29E := by decide

/-! ### The step (T20) -/

theorem test_fetch_at_odd_pc : let t := after 0x6112 (State.reset.setPc 0x201)
    t.readV 1 = 0x12 ∧ t.pc = 0x203 := by decide

theorem test_fetch_at_last_address : let t := after 0x6012 (State.reset.setPc 0xFFE)
    t.pc = 0x1000 ∧ (nextOr t (step t)).result = fatal .memoryBoundsError ∧ (nextOr t (step t)).pc = 0x1000 := by decide

theorem test_fetch_out_of_bounds : let s := State.reset.setPc 0xFFF
    let t := nextOr s (step s)
    t.run = .halted .memoryBoundsError ∧ t.pc = 0xFFF ∧ t.result = fatal .memoryBoundsError := by decide

theorem test_zero_word_reports_OpcodeError : let t := after 0x0000 State.reset
    t.pc = 0x202 ∧ t.run = .running ∧ t.result = some ⟨.opcodeError, false⟩ := by decide

theorem test_halted_step : let s := State.reset.setRun (.halted .stackOverflowError)
    let t := nextOr s (step s)
    t.pc = 0x200 ∧ t.run = s.run ∧ t.result = fatal .stackOverflowError := by decide

/-! ### Control flow (T21) -/

theorem test_RET : let t := after 0x00EE ((stacked 1 0x200 State.reset).setPc 0x300)
    t.sp = 0 ∧ t.pc = 0x202 ∧ t.stack[0] = 0x200 := by decide
theorem test_RET_on_empty_stack : let t := after 0x00EE State.reset
    t.run = .halted .stackUnderflowError ∧ t.pc = 0x200 ∧ t.sp = 0 := by decide
theorem test_JP : (after 0x1ABC State.reset).pc = 0xABC ∧ (after 0x1FFF State.reset).result = okay false := by decide
theorem test_CALL : let t := after 0x2ABC ((stacked 15 0 State.reset).setPc 0x345)
    t.stack[15] = 0x345 ∧ t.sp = 16 ∧ t.pc = 0xABC := by decide
theorem test_CALL_on_full_stack : let t := after 0x2300 (stacked 16 0 State.reset)
    t.run = .halted .stackOverflowError ∧ t.pc = 0x200 ∧ t.sp = 16 := by decide
theorem test_SE_immediate : (after 0x3A42 (withV [(10, 0x42)])).pc = 0x204 ∧ (after 0x3A42 (withV [(10, 0x43)])).pc = 0x202 := by
  decide
theorem test_SNE_immediate : (after 0x4A42 (withV [(10, 0x42)])).pc = 0x202 ∧ (after 0x4A42 (withV [(10, 0x43)])).pc = 0x204 := by
  decide
theorem test_SE_register : (after 0x5120 (withV [(1, 7), (2, 7)])).pc = 0x204 ∧
    (after 0x5120 (withV [(1, 7), (2, 8)])).pc = 0x202 := by decide
theorem test_SNE_register : (after 0x9120 (withV [(1, 7), (2, 7)])).pc = 0x202 ∧
    (after 0x9120 (withV [(1, 7), (2, 8)])).pc = 0x204 := by decide
theorem test_JP_V0 : (after 0xB300 (withV [(0, 0x10)])).pc = 0x310 ∧ (after 0xBFFF (withV [(0, 0xFF)])).pc = 0x10FE := by
  decide

/-! ### Arithmetic and logic (T22) -/

theorem test_LD_immediate : (after 0x6A7F State.reset).readV 10 = 0x7F := by decide
theorem test_ADD_immediate_wraps_without_flag : let t := after 0x7001 (withV [(0, 0xFF), (15, 0x5A)])
    t.readV 0 = 0x00 ∧ t.readV 15 = 0x5A := by decide
theorem test_LD_register : (after 0x8010 (withV [(0, 0x01), (1, 0x99)])).readV 0 = 0x99 := by decide
theorem test_OR : let t := after 0x8011 (withV [(0, 0x0F), (1, 0xF0), (15, 0x77)])
    t.readV 0 = 0xFF ∧ t.readV 15 = 0x77 := by decide
theorem test_AND : let t := after 0x8012 (withV [(0, 0x3C), (1, 0x0F), (15, 0x77)])
    t.readV 0 = 0x0C ∧ t.readV 15 = 0x77 := by decide
theorem test_XOR : let t := after 0x8013 (withV [(0, 0xFF), (1, 0x0F), (15, 0x77)])
    t.readV 0 = 0xF0 ∧ t.readV 15 = 0x77 := by decide
theorem test_ADD_carry : let t := after 0x8014 (withV [(0, 0xFF), (1, 0x01)])
    t.readV 0 = 0x00 ∧ t.readV 15 = 1 := by decide
theorem test_ADD_into_and_from_VF : (after 0x8F14 (withV [(15, 0xF0), (1, 0x20)])).readV 15 = 0x10 ∧
    (after 0x80F4 (withV [(0, 0xF0), (15, 0x20)])).readV 0 = 0x10 ∧
    (after 0x80F4 (withV [(0, 0xF0), (15, 0x20)])).readV 15 = 1 := by decide
theorem test_SUB_borrow : let t := after 0x8015 (withV [(0, 3), (1, 5)])
    t.readV 0 = 0xFE ∧ t.readV 15 = 0 := by decide
theorem test_SUB_equal : let t := after 0x8015 (withV [(0, 7), (1, 7)])
    t.readV 0 = 0x00 ∧ t.readV 15 = 1 := by decide
theorem test_SHR : let t := after 0x8016 (withV [(0, 0x05), (1, 0xEE)])
    t.readV 0 = 0x02 ∧ t.readV 15 = 1 ∧ t.readV 1 = 0xEE := by decide
theorem test_SHR_of_VF : (after 0x8F06 (withV [(15, 0x07)])).readV 15 = 0x03 := by decide
theorem test_SUBN : let t := after 0x8017 (withV [(0, 5), (1, 3)])
    t.readV 0 = 0xFE ∧ t.readV 15 = 0 := by decide
theorem test_SUBN_of_VF : (after 0x8F17 (withV [(15, 3), (1, 5)])).readV 15 = 0x02 := by decide
theorem test_SHL : let t := after 0x801E (withV [(0, 0x81), (1, 0xEE)])
    t.readV 0 = 0x02 ∧ t.readV 15 = 1 ∧ t.readV 1 = 0xEE := by decide
theorem test_SHL_of_VF : (after 0x8F0E (withV [(15, 0x41)])).readV 15 = 0x82 := by decide
/-- T22, line 42: the mask 0 gives 0 whatever is drawn. -/
theorem test_RND_under_zero_mask (s : State) :
    (nextOr s (exec (.rndVxNn 0 0x00) s)).readV 0 = 0 :=
  (Laws.readV_writeV_self s.drawByte.2 0 _).trans BitVec.and_zero

/-! ### Address register, load and store (T23) -/

theorem test_LD_I : (after 0xAFFF State.reset).i = 0xFFF := by decide
theorem test_ADD_I : let t := after 0xF01E ((withV [(0, 0x01), (15, 0x55)]).setI 0xFFF)
    t.i = 0x000 ∧ t.readV 15 = 0x55 := by decide
theorem test_ADD_I_from_past_the_end : (after 0xF01E (State.reset.setI 0x1000)).i = 0x000 := by decide
theorem test_LD_F : (after 0xF429 (withV [(4, 0x0A)])).i = 0x032 ∧ (after 0xF429 (withV [(4, 0xFF)])).i = 0x4FB := by decide
theorem test_LD_B : let t := after 0xF033 ((withV [(0, 234)]).setI 0x300)
    t.byteAt 0x300 = 2 ∧ t.byteAt 0x301 = 3 ∧ t.byteAt 0x302 = 4 ∧ t.i = 0x300 := by decide
theorem test_LD_B_out_of_bounds : let t := after 0xF033 ((withV [(0, 199)]).setI 0xFFE)
    t.run = .halted .memoryBoundsError ∧ t.byteAt 0xFFE = 0 ∧ t.byteAt 0xFFF = 0 ∧ t.pc = 0x200 := by decide
theorem test_LD_MI : let t := after 0xF255 ((withV [(0, 1), (1, 2), (2, 3), (3, 4)]).setI 0x300)
    t.byteAt 0x300 = 1 ∧ t.byteAt 0x302 = 3 ∧ t.byteAt 0x303 = 0 ∧ t.i = 0x303 := by decide
theorem test_LD_MI_over_itself_without_increment :
    let t := after 0xF055 (policy false ((withV [(0, 0x12)]).setI 0x200))
    t.byteAt 0x200 = 0x12 ∧ t.byteAt 0x201 = 0x55 ∧ t.i = 0x200 ∧ t.pc = 0x202 := by decide
theorem test_LD_MI_top_of_memory : (after 0xFF55 (State.reset.setI 0xFF0)).i = 0x1000 ∧
    (after 0xFF55 (State.reset.setI 0xFF1)).run = .halted .memoryBoundsError := by decide
theorem test_LD_VX_MI : let t := after 0xF265 (storing 0x300 [2, 3, 4, 5] ((withV [(3, 0x99)]).setI 0x300))
    t.readV 0 = 2 ∧ t.readV 2 = 4 ∧ t.readV 3 = 0x99 ∧ t.i = 0x303 := by decide
theorem test_LD_VX_MI_of_the_font : let t := after 0xFF65 State.reset
    t.readV 0 = 0xF0 ∧ t.readV 5 = 0x20 ∧ t.readV 13 = 0x80 ∧ t.readV 15 = 0xF0 ∧ t.i = 0x010 := by decide

/-! ### Display (T24) -/

theorem test_CLS : let t := after 0x00E0 (lit [(1, 0), (63, 31)] (withV [(15, 1)]))
    t.pix = blankDisplay ∧ t.readV 15 = 1 ∧ t.result = okay true := by decide
theorem test_DRW_glyph_zero : let t := after 0xD015 State.reset
    t.pix = (lit [(0, 0), (1, 0), (2, 0), (3, 0), (0, 1), (3, 1), (0, 2), (3, 2), (0, 3), (3, 3), (0, 4), (1, 4), (2, 4),
      (3, 4)] State.reset).pix ∧ t.readV 15 = 0 ∧ t.result = okay true := by decide
theorem test_DRW_wraps_and_collides :
    let t := after 0xD011 (lit [(0, 5)] (storing 0x300 [0xFF] ((withV [(0, 0x7C), (1, 0x25)]).setI 0x300)))
    t.pix = (lit [(60, 5), (61, 5), (62, 5), (63, 5), (1, 5), (2, 5), (3, 5)] State.reset).pix ∧ t.readV 15 = 1 := by decide

/-! ### Timers (T25) -/

theorem test_LD_VX_DT : (after 0xF007 (State.reset.setDt 0x2A)).readV 0 = 0x2A := by decide
theorem test_LD_DT : let t := after 0xF015 (withV [(0, 0x3C)])
    t.dt = 0x3C ∧ t.st = 0 := by decide
theorem test_LD_ST : let t := after 0xF018 (withV [(0, 0x02)])
    t.st = 0x02 ∧ t.dt = 0 ∧ isSoundActive t = true := by decide
theorem test_tick : let t := tickTimers ((State.reset.setDt 2).setSt 1)
    t.dt = 1 ∧ t.st = 0 ∧ isSoundActive t = false ∧ (tickTimers State.reset).dt = 0 := by decide

/-! ### Keypad (T26) -/

theorem test_SKP : (after 0xE09E (pressing [5] (withV [(0, 5)]))).pc = 0x204 ∧
    (after 0xE09E (pressing [4] (withV [(0, 5)]))).pc = 0x202 ∧
    (after 0xE09E (pressing [5] (withV [(0, 0x15)]))).pc = 0x204 := by decide
theorem test_SKNP : (after 0xE0A1 (pressing [5] (withV [(0, 0xF5)]))).pc = 0x202 ∧
    (after 0xE0A1 (withV [(0, 5)])).pc = 0x204 := by decide
theorem test_LD_VX_K : let t := after 0xF30A (pressing [9, 4] State.reset)
    t.run = .waitingForKey 3 ∧ t.pc = 0x200 ∧ t.readV 3 = 0 := by decide
theorem test_poll_takes_the_lowest_key : let s := (pressing [9, 4] State.reset).setRun (.waitingForKey 3)
    let t := nextOr s (step s)
    t.run = .running ∧ t.pc = 0x202 ∧ t.readV 3 = 4 ∧ t.key = s.key := by decide

/-! ### Host operations (T30) -/

theorem test_load_refuses_empty_and_too_long :
    loadAccepts [] = false ∧ loadAccepts (List.replicate 3585 0) = false ∧ loadAccepts [0x12] = true := by
  refine ⟨rfl, ?_, rfl⟩
  rw [loadAccepts, List.length_replicate]
  decide
theorem test_load_copies : (loadProgram [0x12, 0x34] State.reset).map (fun t => (t.byteAt 0x200, t.byteAt 0x201, t.byteAt 0x202)) =
    some (0x12, 0x34, 0x00) := by decide
theorem test_set_key : let t := setKey 15 true State.reset
    t.key[15] = true ∧ t.key[14] = false ∧ (setKey 15 false t).key = State.reset.key := by decide
theorem test_framebuffer_last_cell : (framebuffer (lit [(63, 31)] State.reset))[2047] = true ∧
    (framebuffer (lit [(63, 31)] State.reset))[2046] = false := by
  simp only [framebuffer, Vector.getElem_ofFn]
  decide

/-! ### Witnesses: the hypotheses of each statement that has any are met, at the ends of their ranges -/

theorem witness_DecodeInvertsEncode : (Instr.drwVxVyN 15 15 15).wf = true ∧ (Instr.drwVxVyN 0 0 0).wf = true := by decide

theorem witness_EncodeInvertsDecode : decodeWord 0xFF65 = some (.ldVxMi 15) ∧ decodeWord 0x00E0 = some .cls := by decide

theorem witness_DecoderFollowsTheOpcodeMap : decodeWord 0x00E0 = some .cls ∧ (⟨0x00E0, 0xFFFF⟩ : OpcodeRow) ∈ opcodeMap ∧
    OpcodeRow.matchesWord ⟨0x00E0, 0xFFFF⟩ 0x00E0 = true ∧ decodeWord 0x00E1 = none := by decide

theorem witness_TwoBytesHighByteFirst : (Instr.drwVxVyN 1 2 15).wf = true ∧
    (0xD1 : Byte).toNat = (encode (.drwVxVyN 1 2 15)).toNat / 256 ∧
    (0x2F : Byte).toNat = (encode (.drwVxVyN 1 2 15)).toNat % 256 := by decide

/-- A CALL at the last address a fetch reaches. -/
def callAtTop : State := (State.reset.setPc 0xFFE).withFetchWord 16 0x2300

theorem witness_StepRunsTheDecodedInstruction : callAtTop.run = .running ∧ callAtTop.pc.toNat + 1 < 4096 ∧
    decodeWord (wordAt callAtTop callAtTop.pc.toNat) = some (.callNnn 0x300) := by decide

theorem witness_FetchIsBoundsCheckedAndBigEndian :
    (State.reset.setPc 0xFFF).run = .running ∧ (State.reset.setPc 0xFFF).pc.toNat ≥ 4095 ∧
    callAtTop.run = .running ∧ callAtTop.pc.toNat < 4095 := by decide

theorem witness_UnmatchedWordReportsOpcodeError : (State.reset.setPc 0xFFE).run = .running ∧
    (State.reset.setPc 0xFFE).pc.toNat < 4095 ∧ decodeWord (wordAt (State.reset.setPc 0xFFE) 0xFFE) = none := by decide

/-- A state that a memory error has stopped. -/
def stopped : State := State.reset.setRun (.halted .memoryBoundsError)

theorem witness_HaltedStepsRepeatTheError : stopped.run = .halted .memoryBoundsError := rfl

theorem witness_StepResultByCase : ∃ t u w, step (State.reset.withFetchWord 16 0x00E0) = .next t ∧
    t.result = some ⟨.ok, true⟩ ∧ step State.reset = .next u ∧ u.result = some ⟨.opcodeError, false⟩ ∧
    step stopped = .next w ∧ w.result = some ⟨.fatal .memoryBoundsError, false⟩ :=
  ⟨_, _, _, eq_next State.reset (by decide), by decide, eq_next State.reset (by decide), by decide, rfl, by decide⟩

/-- A CALL on a full stack and a RET on an empty one. -/
def callOnFull : State := (stacked 16 0 State.reset).withFetchWord 16 0x2300
def retOnEmpty : State := State.reset.withFetchWord 16 0x00EE

theorem witness_StackErrorsHaveExactlyTheirCauses :
    callOnFull.run = .running ∧ (∃ t, step callOnFull = .next t ∧ t.run = .halted .stackOverflowError) ∧
    retOnEmpty.run = .running ∧ (∃ t, step retOnEmpty = .next t ∧ t.run = .halted .stackUnderflowError) :=
  ⟨by decide, ⟨_, eq_next State.reset (by decide), by decide⟩, by decide,
    ⟨_, eq_next State.reset (by decide), by decide⟩⟩

theorem witness_MemoryBoundsErrorHasExactlyFiveCauses : ∀ s ∈ [State.reset.setPc 0xFFF,
      (State.reset.setI 0x1000).withFetchWord 16 0xD011, (State.reset.setI 0xFFE).withFetchWord 16 0xF033,
      (State.reset.setI 0xFF1).withFetchWord 16 0xFF55, (State.reset.setI 0x1000).withFetchWord 16 0xF065],
    s.run = .running ∧ ∃ t, step s = .next t ∧ t.run = .halted .memoryBoundsError := by
  intro s hs
  simp only [List.mem_cons, List.not_mem_nil, or_false] at hs
  obtain rfl | rfl | rfl | rfl | rfl := hs <;>
    exact ⟨by decide, _, eq_next State.reset (by decide), by decide⟩

theorem witness_FatalErrorsArePrecise : retOnEmpty.run = .running ∧
    ∃ t, step retOnEmpty = .next t ∧ t.run = .halted .stackUnderflowError :=
  ⟨by decide, _, eq_next State.reset (by decide), by decide⟩

theorem witness_OnlyInitializeLeavesHalted : Operation.step ≠ .reset ∧
    (⟨stopped, .stepped⟩ : Session).state.run = .halted .memoryBoundsError ∧
    ∃ z r, Session.operate .step ⟨stopped, .stepped⟩ = .next (z, r) :=
  ⟨by decide, rfl, _, _, rfl⟩

theorem witness_StepKeepsTheInvariant : State.reset.Inv ∧ ∃ t, step State.reset = .next t :=
  ⟨⟨rfl, by decide, by decide, by decide, by intro x h; cases h⟩, _, eq_next State.reset (by decide)⟩

theorem witness_EveryScheduleKeepsTheInvariant :
    (∃ z r, State.reset.Inv ∧ Session.operate (.setKey 15 true) ⟨State.reset, .initialized⟩ = .next (z, r)) ∧
    ∃ z, Session.runOps [.loadProgram [0x12], .setKey 15 true, .tickTimers] (Session.start defaultConfig) = .next z :=
  ⟨⟨_, _, witness_StepKeepsTheInvariant.1, rfl⟩, _, rfl⟩

theorem witness_InstructionsWriteOnlyWhatTheirRulesName : ∃ t, exec (.addVxVy 0 1) State.reset = .next t ∧
    ¬ mayWrite (.addVxVy 0 1) State.reset (.v 1) :=
  ⟨_, rfl, show ¬ ((1 : Reg) = 0 ∨ (1 : Reg) = regF) by decide⟩

/-- A `step` operation answers when the core's step does. -/
theorem operate_step {s : State} (p : Phase) (h : goesOn (step s) = true) :
    ∃ r, Session.operate .step ⟨s, p⟩ = .next (⟨nextOr s (step s), .stepped⟩, r) := by
  refine ⟨.stepped (nextOr s (step s)).result, ?_⟩
  show Session.stepCore ⟨s, p⟩ = _
  unfold Session.stepCore
  rw [eq_next s h]
  rfl

/-- A CLS with one cell on. -/
def clsOnDot : State := (lit [(0, 0)] State.reset).withFetchWord 16 0x00E0

/-- Each kind of part is changed by some operation. -/
theorem witness_WhoWritesWhat :
    (∃ z r, Session.operate (.setKey 3 true) ⟨State.reset, .loaded⟩ = .next (z, r) ∧ z.state.key[3] ≠ State.reset.key[3]) ∧
    (∃ z r, Session.operate .tickTimers ⟨(State.reset.setDt 1).setSt 1, .loaded⟩ = .next (z, r) ∧
      z.state.dt ≠ 1 ∧ z.state.st ≠ 1) ∧
    (∃ z r, Session.operate (.loadProgram [0xAA]) ⟨State.reset, .initialized⟩ = .next (z, r) ∧
      z.state.byteAt 0x200 ≠ State.reset.byteAt 0x200) ∧
    ∃ z r, Session.operate .step ⟨clsOnDot, .loaded⟩ = .next (z, r) ∧ z.state.pix.cell 0 0 ≠ clsOnDot.pix.cell 0 0 :=
  ⟨⟨_, _, rfl, by decide⟩, ⟨_, _, rfl, by decide⟩, ⟨_, _, rfl, by decide⟩, _,
    (operate_step .loaded (by decide)).choose, (operate_step .loaded (by decide)).choose_spec, by decide⟩

theorem witness_ReturnGoesToEntryPlusTwo : 0 < (stacked 1 0x200 State.reset).sp.val ∧
    0 < (stacked 16 0xFFE State.reset).sp.val ∧ State.reset.sp.val = 0 := by decide

theorem witness_CallPushesItsOwnAddress : State.reset.sp.val < 16 ∧ (stacked 15 0x200 State.reset).sp.val < 16 ∧
    (stacked 16 0x200 State.reset).sp.val = 16 := by decide

/-- Each condition holds somewhere and fails somewhere. -/
theorem witness_RegisterSkipsAddFourOrTwo : (withV [(1, 7), (2, 7)]).readV 1 = 7 ∧ (withV [(1, 7), (2, 7)]).readV 1 ≠ 8 ∧
    (withV [(1, 7), (2, 7)]).readV 1 = (withV [(1, 7), (2, 7)]).readV 2 ∧
    (withV [(1, 7), (2, 8)]).readV 1 ≠ (withV [(1, 7), (2, 8)]).readV 2 := by decide

theorem witness_CallAndReturnPairUp :
    (∃ t u : State, (stacked 15 0x200 State.reset).sp.val < 16 ∧
      exec (.callNnn 0x300) (stacked 15 0x200 State.reset) = .next t ∧ u.sp = t.sp ∧ u.stack[15] = t.stack[15] ∧ u.pc = 0x300) ∧
    State.reset.sp = 0 ∧ (List.replicate 16 (0x300 : Imm12)).length ≤ 16 ∧ (List.replicate 16 (0x300 : Imm12)).length = 16 :=
  ⟨⟨_, _, by decide, eq_next State.reset (by decide), rfl, rfl, by decide⟩, by decide, by decide, by decide⟩

/-- X = F is no hypothesis of the flag statements; X ≠ F is met by V0, with a sum of 255 and of 256, a difference of 0
and a borrow, and both values of the bit shifted out. -/
theorem witness_flag_statements : (0 : Reg) ≠ regF ∧
    (withV [(0, 255)]).readV 0 = 255 ∧ (withV [(0, 255), (1, 1)]).readV 1 = 1 ∧
    ¬ (withV [(0, 0), (1, 1)]).readV 0 ≥ (withV [(0, 0), (1, 1)]).readV 1 := by decide

theorem witness_BcdStoresThreeDigits : Memory.wf State.reset.config.font State.reset.mem = true ∧
    (State.reset.setI 0xFFD).i.toNat + 2 ≤ 4095 ∧ (State.reset.setI 0xFFE).i.toNat + 2 > 4095 := by decide

theorem witness_BlockStoreWritesRegisters : Memory.wf State.reset.config.font State.reset.mem = true ∧
    (State.reset.setI 0xFF0).i.toNat + (15 : Reg).val ≤ 4095 ∧ (State.reset.setI 0xFF1).i.toNat + (15 : Reg).val > 4095 ∧
    (policy false State.reset).config.loadStoreIncrementsI = false ∧ (14 : Reg) ≤ 15 := by decide

theorem witness_BlockLoadReadsRegisters : (State.reset.setI 0xFFF).i.toNat + (0 : Reg).val ≤ 4095 ∧
    (State.reset.setI 0x1000).i.toNat + (0 : Reg).val > 4095 ∧ (0 : Reg) ≤ 0 := by decide

/-- A state about to store or draw at the top of memory. -/
def atTop (a : Word) : State := (withV [(0, 0x12), (1, 0x34)]).setI a

theorem witness_BlockStoreThenLoadRestores : Memory.wf (atTop 0xFF0).config.font (atTop 0xFF0).mem = true ∧
    (atTop 0xFF0).i.toNat + (15 : Reg).val ≤ 4095 ∧ ∃ t u : State, exec (.ldMiVx 15) (atTop 0xFF0) = .next t ∧
      u.mem = t.mem ∧ u.config = (atTop 0xFF0).config ∧ u.i = (atTop 0xFF0).i :=
  ⟨by decide, by decide, _, State.setI _ _, eq_next State.reset (by decide), rfl, by decide, rfl⟩

theorem witness_StoredWordIsFetched : Memory.wf (atTop 0xFFE).config.font (atTop 0xFFE).mem = true ∧ 1 ≤ (1 : Reg).val ∧
    (atTop 0xFFE).i.toNat + (1 : Reg).val ≤ 4095 ∧ ∃ t, exec (.ldMiVx 1) (atTop 0xFFE) = .next t :=
  ⟨by decide, by decide, by decide, _, eq_next State.reset (by decide)⟩

/-- One row 80 under V0 = V1 = 0: the sprite covers cell (0, 0), which is off in one display and on in another. -/
def dot : State := storing 0xFFF [0x80] (State.reset.setI 0xFFF)

theorem dot_covers (s : State) (h : s.byteAt (s.i.toNat + 0) = 0x80) : spriteCovers s 0 0 1 0 0 :=
  ⟨0, by decide, 0, by decide, by rw [h]; decide, rfl, rfl⟩

theorem witness_DrawTogglesExactlyTheSprite : 1 ≤ 15 ∧ dot.i.toNat + 1 - 1 ≤ 4095 ∧ spriteCovers dot 0 0 1 0 0 ∧
    dot.pix.cell 0 0 = false ∧ spriteCovers (lit [(0, 0)] dot) 0 0 1 0 0 ∧ (lit [(0, 0)] dot).pix.cell 0 0 = true ∧
    (State.reset.setI 0xFF1).i.toNat + 15 - 1 ≤ 4095 ∧
    (1 ≤ 2 ∧ dot.i.toNat + 2 - 1 > 4095) :=
  ⟨by decide, by decide, dot_covers dot (by decide), by decide, dot_covers _ (by decide), by decide, by decide, by decide,
    by decide⟩

theorem witness_SpritePixelsFallOnDistinctCells : (List.replicate 15 (0xFF : Byte)).length ≤ 15 := by decide

theorem witness_DrawingTwiceRestoresTheDisplay : (0 : Reg) ≠ regF ∧ (1 : Reg) ≠ regF ∧ 1 ≤ 15 ∧
    (1 = 0 ∨ dot.i.toNat + 1 - 1 ≤ 4095) ∧ ∃ t, exec (.drwVxVyN 0 1 1) dot = .next t :=
  ⟨by decide, by decide, by decide, by decide, _, eq_next State.reset (by decide)⟩

theorem witness_KeySkipsTestOneKey : (5 : Reg).val = ((pressing [5] (withV [(0, 0x15)])).readV 0).toNat % 16 ∧
    (pressing [5] (withV [(0, 0x15)])).key[(5 : Reg)] = true ∧
    (15 : Reg).val = ((withV [(0, 0xFF)]).readV 0).toNat % 16 ∧ (withV [(0, 0xFF)]).key[(15 : Reg)] = false := by decide

/-- Waiting for a key. -/
def waiting : State := State.reset.setRun (.waitingForKey 15)

theorem witness_PollStoresTheLowestKey : waiting.run = .waitingForKey 15 ∧
    (pressing [15] waiting).run = .waitingForKey 15 ∧ (pressing [15] waiting).key[(15 : Reg)] = true ∧
    (∀ j : Reg, j < 15 → (pressing [15] waiting).key[j] = false) ∧ (pressing [0] waiting).key[(0 : Reg)] = true ∧
    ∀ k : Reg, waiting.key[k] = false := by decide

theorem witness_KeyWaitHoldsWhileNoKeyIsPressed : waiting.run = .waitingForKey 15 ∧ ∀ k : Reg, waiting.key[k] = false := by
  decide

theorem witness_LoadCopiesTheProgram : (Session.start defaultConfig).phase = .initialized ∧
    ([] : List Byte).length = 0 ∧ (List.replicate 3585 (0 : Byte)).length > 3584 ∧
    Memory.wf State.reset.config.font State.reset.mem = true ∧ 0 < ([0xAA] : List Byte).length ∧
    (List.replicate 3584 (0xAA : Byte)).length ≤ 3584 ∧
    ∃ z, Session.operate (.loadProgram [0xAA]) (Session.start defaultConfig) = .next (z, .loaded) :=
  ⟨rfl, rfl, by rw [List.length_replicate]; decide, rfl, by decide, by rw [List.length_replicate], _, rfl⟩

theorem witness_LoadOutOfOrderIsRefused : (⟨State.reset, .loaded⟩ : Session).phase = .loaded ∧
    (⟨State.reset, .stepped⟩ : Session).phase = .stepped ∧
    (∃ z r, Session.operate .step (Session.start defaultConfig) = .next (z, r)) ∧
    (∃ z r, Session.operate .reset ⟨stopped, .stepped⟩ = .next (z, r)) ∧
    (∃ z, Session.operate (.loadProgram [0xAA]) (Session.start defaultConfig) = .next (z, .loaded)) ∧
    ∃ z, Session.operate (.loadProgram []) (Session.start defaultConfig) = .next (z, .loadError) := by
  refine ⟨rfl, rfl, ⟨_, operate_step .initialized ?_⟩, ⟨_, _, rfl⟩, ⟨_, rfl⟩, ⟨_, rfl⟩⟩
  decide

theorem witness_HostReadsChangeNothing : 64 * (31 : Fin 32).val + (63 : Fin 64).val < 2048 ∧
    (State.reset.setSt 1).st.toNat > 0 ∧ ¬ State.reset.st.toNat > 0 := by decide

theorem witness_PlacedWordIsFetched : Memory.wf State.reset.config.font State.reset.mem = true ∧ 65535 < 65536 := by decide

end Sys2Proof.Tests
end

section
/-! Proofs about the state: what `initialize()` leaves in every state element (10 R27, 70 R200). -/

namespace Sys2Proof.Proofs

open Sys2Proof.Machine Sys2Proof.Laws

/-! ### The reset content of memory -/

theorem unlistedByte_of_lt (font : Vector Byte 80) {a : Nat} (h : a < 80) : unlistedByte font a = font[a] :=
  dif_pos h

theorem unlistedByte_of_ge (font : Vector Byte 80) {a : Nat} (h : 80 ≤ a) : unlistedByte font a = 0 :=
  dif_neg (by omega)

/-! ### The state after `initialize()` -/

section
variable (s : State)

@[simp] theorem initializeState_v : (initializeState s).v = Vector.replicate 16 0 := rfl
@[simp] theorem initializeState_i : (initializeState s).i = 0 := rfl
@[simp] theorem initializeState_pc : (initializeState s).pc = 0x200 := rfl
@[simp] theorem initializeState_sp : (initializeState s).sp = 0 := rfl
@[simp] theorem initializeState_stack : (initializeState s).stack = Vector.replicate 16 0 := rfl
@[simp] theorem initializeState_dt : (initializeState s).dt = 0 := rfl
@[simp] theorem initializeState_st : (initializeState s).st = 0 := rfl
@[simp] theorem initializeState_pix : (initializeState s).pix = blankDisplay := rfl
@[simp] theorem initializeState_key : (initializeState s).key = Vector.replicate 16 false := rfl
@[simp] theorem initializeState_run : (initializeState s).run = .running := rfl

/-- No cell is listed after `initialize()`, so MEM is the reset content of the machine's own font. -/
@[simp] theorem byteAt_initializeState (a : Nat) : (initializeState s).byteAt a = unlistedByte s.config.font a := rfl

@[simp] theorem readV_initializeState (r : Reg) : (initializeState s).readV r = 0 := by
  simp [State.readV]

end

theorem operate_reset (z : Session) :
    Session.operate .reset z = .next (⟨initializeState z.state, .initialized⟩, .done) := rfl

/-- Settles O53: the session's state becomes `initializeState`, whose memory reads as the reset content and whose
other elements are the constants of R27. -/
theorem initializeResetsEveryElement : Obligations.InitializeResetsEveryElement := by
  intro z
  have font_bytes : ∀ a (h : a < 80), (initializeState z.state).byteAt a = z.state.config.font[a] :=
    fun a h => unlistedByte_of_lt _ h
  have zero_bytes : ∀ a, 80 ≤ a → a ≤ 4095 → (initializeState z.state).byteAt a = 0 :=
    fun a h _ => unlistedByte_of_ge _ h
  exact ⟨initializeState z.state, operate_reset z, font_bytes, zero_bytes, by simp⟩

end Sys2Proof.Proofs
end

section
/-! Proofs about completing instructions and the frame rule (00 section 6): one lemma per state operation for the parts
it keeps, and one lemma from an answer `complete` to the statement form `completes`. -/

namespace Sys2Proof.Proofs

open Sys2Proof.Machine Sys2Proof.Laws

/-! ### The frame of an operation -/

/-- The result is no part of the state (R84). -/
theorem samePart_report {s t : State} {p : Part} (r : StepResult) (h : samePart s t p) : samePart s (t.report r) p := by
  cases p <;> exact h

theorem samePart_setPc {s t : State} {p : Part} (a : Word) (hp : p ≠ .pc) (h : samePart s t p) :
    samePart s (t.setPc a) p := by
  cases p with
  | pc => exact absurd rfl hp
  | _ => exact h

theorem samePart_refl (s : State) (p : Part) : samePart s s p := by
  cases p <;> rfl

/-! ### From an answer to the statement form -/

theorem completes_of_complete {i : Instr} {s t : State} {d : Bool} {changes : Part → Prop} {post : State → Prop}
    (he : exec i s = complete d t) (frame : ∀ p, ¬ changes p → samePart s t p) (hpost : post (t.report ⟨.ok, d⟩)) :
    completes i s d changes post :=
  ⟨_, he, rfl, fun p hp => samePart_report _ (frame p hp), hpost⟩

theorem completes_of_setPc {i : Instr} {s : State} {a : Word} {post : State → Prop}
    (he : exec i s = complete false (s.setPc a)) (hpost : post ((s.setPc a).report ⟨.ok, false⟩)) :
    completes i s false (fun p => p = .pc) post :=
  completes_of_complete he (fun p hp => samePart_setPc a hp (samePart_refl s p)) hpost

/-- An instruction whose meaning is a skip on c (R104) moves PC by 4 where c is true and by 2 where it is false. -/
theorem completes_of_skipIf {i : Instr} {s : State} {c : Bool} {holds fails : Prop}
    (he : exec i s = complete false (s.skipIf c)) (hT : holds → c = true) (hF : fails → c = false) :
    completes i s false (fun p => p = .pc) fun t => (holds → t.pc = s.pc + 4) ∧ (fails → t.pc = s.pc + 2) := by
  refine completes_of_setPc he ⟨fun h => ?_, fun h => ?_⟩
  · simp [hT h]
  · simp [hF h]

end Sys2Proof.Proofs
end

section
/-! Proofs about control transfer (41): the jumps, the register skips, call and return, and how calls and returns nest. -/

namespace Sys2Proof.Proofs

open Sys2Proof.Machine Sys2Proof.Laws

/-! ### Jump targets -/

@[simp] theorem toNat_addressOf (nnn : Imm12) : (addressOf nnn).toNat = nnn.toNat := by
  have hn : nnn.toNat < 65536 := nnn.isLt.trans (by decide)
  simpa [addressOf] using hn

/-- A 12-bit and an 8-bit number have a sum of at most 0x10FE, so the 16-bit sum is exact (R102). -/
theorem toNat_indexedTarget (s : State) (nnn : Imm12) :
    (s.indexedTarget nnn).toNat = nnn.toNat + (s.readV 0).toNat := by
  have hn : nnn.toNat < 4096 := nnn.isLt
  have hv : (s.readV 0).toNat < 256 := (s.readV 0).isLt
  rw [State.indexedTarget, BitVec.toNat_add, toNat_addressOf, BitVec.toNat_setWidth]
  omega

/-- Settles O24: both jumps are one PC write, to a target that is exact as a natural number. -/
theorem jumpsSetPc : Obligations.JumpsSetPc := fun nnn s =>
  ⟨completes_of_setPc rfl (toNat_addressOf nnn), completes_of_setPc rfl (toNat_indexedTarget s nnn)⟩

/-- Settles O26: each register skip is `skipIf` of its comparison. -/
theorem registerSkipsAddFourOrTwo : Obligations.RegisterSkipsAddFourOrTwo := fun _ _ _ _ =>
  ⟨completes_of_skipIf rfl beq_iff_eq.2 beq_eq_false_iff_ne.2,
    completes_of_skipIf rfl bne_iff_ne.2 bne_eq_false_iff_eq.2,
    completes_of_skipIf rfl beq_iff_eq.2 beq_eq_false_iff_ne.2,
    completes_of_skipIf rfl bne_iff_ne.2 bne_eq_false_iff_eq.2⟩

/-! ### The stack after a push and after a pop -/

/-- The state after a push that has room (R97). -/
def pushed (s : State) (a : Word) (h : s.sp.val < 16) : State :=
  { s with stack := s.stack.set s.sp.val a, sp := ⟨s.sp.val + 1, by omega⟩ }

/-- The state after a pop of a stack in use (R95); the entry keeps its value (R17). -/
def popped (s : State) (h : 0 < s.sp.val) : State := { s with sp := ⟨s.sp.val - 1, by omega⟩ }

section
variable (s : State)

@[simp] theorem pushed_sp_val (a : Word) (h : s.sp.val < 16) : (pushed s a h).sp.val = s.sp.val + 1 := rfl
@[simp] theorem pushed_stack (a : Word) (h : s.sp.val < 16) : (pushed s a h).stack = s.stack.set s.sp.val a := rfl
@[simp] theorem popped_sp_val (h : 0 < s.sp.val) : (popped s h).sp.val = s.sp.val - 1 := rfl

/-- A push keeps every part but SP and the entry at the old SP. -/
theorem samePart_pushed (a : Word) (h : s.sp.val < 16) {p : Part} (hsp : p ≠ .sp) (hst : p ≠ .stack ⟨s.sp.val, h⟩) :
    samePart s (pushed s a h) p := by
  cases p with
  | sp => exact absurd rfl hsp
  | stack k =>
    have hk : s.sp.val ≠ k.val := fun he => hst (congrArg Part.stack (Fin.ext he.symm))
    exact Vector.getElem_set_ne h k.isLt hk
  | _ => rfl

/-- A pop keeps every part but SP, the stack entries among them. -/
theorem samePart_popped (h : 0 < s.sp.val) {p : Part} (hsp : p ≠ .sp) : samePart s (popped s h) p := by
  cases p with
  | sp => exact absurd rfl hsp
  | _ => rfl

end

/-! ### Call and return -/

theorem exec_callNnn (nnn : Imm12) {s : State} (h : s.sp.val < 16) :
    exec (.callNnn nnn) s = complete false ((pushed s s.pc h).setPc (addressOf nnn)) := by
  obtain ⟨_, he⟩ | ⟨hfull, _⟩ := execCallNnn_cases nnn s
  · exact he
  · omega

theorem raises_callNnn (nnn : Imm12) {s : State} (h : s.sp.val = 16) : raises (.callNnn nnn) s .stackOverflowError := by
  obtain ⟨hroom, _⟩ | ⟨_, he⟩ := execCallNnn_cases nnn s
  · omega
  · exact he

theorem exec_ret {s : State} (h : 0 < s.sp.val) :
    exec .ret s = complete false ((popped s h).setPc (s.stack[s.sp.val - 1] + 2)) := by
  obtain ⟨_, he⟩ | ⟨hempty, _⟩ := execRet_cases s
  · exact he
  · omega

theorem raises_ret {s : State} (h : s.sp.val = 0) : raises .ret s .stackUnderflowError := by
  obtain ⟨hused, _⟩ | ⟨_, he⟩ := execRet_cases s
  · omega
  · exact he

/-- Settles O25: the call is a push of PC and a PC write, or the raise of a full stack. -/
theorem callPushesItsOwnAddress : Obligations.CallPushesItsOwnAddress := by
  refine fun nnn s => ⟨fun h => completes_of_complete (exec_callNnn nnn h) (fun p hp => ?_) ?_, raises_callNnn nnn⟩
  · obtain ⟨hpc, hsp, hst⟩ : p ≠ .pc ∧ p ≠ .sp ∧ p ≠ .stack ⟨s.sp.val, h⟩ := by simpa using hp
    exact samePart_setPc _ hpc (samePart_pushed s s.pc h hsp hst)
  · simp

/-- Settles O23: the return is a pop and a PC write, or the raise of an empty stack. -/
theorem returnGoesToEntryPlusTwo : Obligations.ReturnGoesToEntryPlusTwo := by
  refine fun s => ⟨fun h => completes_of_complete (exec_ret h) (fun p hp => ?_) ?_, raises_ret⟩
  · obtain ⟨hpc, hsp⟩ : p ≠ .pc ∧ p ≠ .sp := by simpa using hp
    exact samePart_setPc _ hpc (samePart_popped s h hsp)
  · simp

/-! ### Nesting -/

/-- A return from any state that keeps SP and the entry of a call undoes it (R103). -/
theorem ret_undoes_callNnn {nnn : Imm12} {s t u : State} (h : s.sp.val < 16) (hcall : exec (.callNnn nnn) s = .next t)
    (hsp : u.sp = t.sp) (hentry : u.stack[s.sp.val] = t.stack[s.sp.val]) :
    ∃ w, exec .ret u = .next w ∧ w.sp = s.sp ∧ w.pc = s.pc + 2 := by
  obtain rfl : _ = t := Host.Outcome.next.inj ((exec_callNnn nnn h).symm.trans hcall)
  have hu : u.sp.val = s.sp.val + 1 := congrArg Fin.val hsp
  have hused : 0 < u.sp.val := by omega
  have hpopped : u.sp.val - 1 = s.sp.val := by omega
  refine ⟨_, exec_ret hused, Fin.ext hpopped, ?_⟩
  simpa [hpopped] using hentry

theorem execAll_cons {i : Instr} {is : List Instr} {s t : State} (h : exec i s = .next t) :
    execAll (i :: is) s = execAll is t := by
  simp [execAll, h]

/-- Calls that the stack has room for all succeed, and SP counts them. -/
theorem execAll_calls (targets : List Imm12) {s : State} (hroom : s.sp.val + targets.length ≤ 16) :
    ∃ t, execAll (targets.map .callNnn) s = .next t ∧ t.sp.val = s.sp.val + targets.length ∧ t.run = s.run := by
  induction targets generalizing s with
  | nil => exact ⟨s, rfl, rfl, rfl⟩
  | cons nnn rest ih =>
    rw [List.length_cons] at hroom
    have h : s.sp.val < 16 := by omega
    have hcall := exec_callNnn nnn h
    obtain ⟨t, ht, hsp, hrun⟩ := ih (s := ((pushed s s.pc h).setPc (addressOf nnn)).report ⟨.ok, false⟩)
      (by rw [report_sp, setPc_sp, pushed_sp_val]; omega)
    rw [report_sp, setPc_sp, pushed_sp_val] at hsp
    exact ⟨t, (execAll_cons hcall).trans ht, by rw [List.length_cons]; omega, hrun⟩

/-- Settles O27: a matched return by `ret_undoes_callNnn`; nested calls by induction over their targets, after which a
full stack raises. -/
theorem callAndReturnPairUp : Obligations.CallAndReturnPairUp := by
  refine ⟨fun _ _ _ _ => ret_undoes_callNnn, fun targets nnn s hempty hlen => ?_⟩
  have hzero : s.sp.val = 0 := congrArg Fin.val hempty
  obtain ⟨t, ht, hsp, hrun⟩ := execAll_calls targets (s := s) (by omega)
  exact ⟨t, ht, by omega, hrun, fun h16 => raises_callNnn nnn (by omega)⟩

end Sys2Proof.Proofs
end

section
/-! Proofs about the arithmetic and logic that writes no flag (42): an instruction that is one register write and the
move to the next word, and the values the immediate forms, the copy and the bitwise forms write. -/

namespace Sys2Proof.Proofs

open Sys2Proof.Machine Sys2Proof.Laws

/-! ### One register write and PC + 2 -/

theorem samePart_writeV {s t : State} {p : Part} {x : Reg} (b : Byte) (hp : p ≠ .v x) (h : samePart s t p) :
    samePart s (t.writeV x b) p := by
  cases p with
  | v r =>
    have hr : r ≠ x := fun e => hp (congrArg Part.v e)
    exact (readV_writeV_other t hr b).trans h
  | _ => exact h

/-- An instruction whose meaning is to write b to V[x] and advance keeps every part but V[x] and PC, VF too unless
x = F; what it leaves is known from the two new values. -/
theorem completes_of_writeV {i : Instr} {s : State} {x : Reg} {b : Byte} {post : State → Prop}
    (he : exec i s = complete false (s.writeV x b).advance)
    (hpost : ∀ t : State, t.readV x = b → t.pc = s.pc + 2 → post t) :
    completes i s false (fun p => p = .v x ∨ p = .pc) post := by
  refine completes_of_complete he (fun p hp => ?_) (hpost _ (readV_writeV_self s x b) rfl)
  obtain ⟨hv, hpc⟩ := not_or.1 hp
  exact samePart_setPc _ hpc (samePart_writeV b hv (samePart_refl s p))

/-! ### The flagless instructions -/

/-- Settles O28: each is one register write, of the immediate, of the sum modulo 256, or of V[Y]. -/
theorem loadAddImmediateAndCopy : Obligations.LoadAddImmediateAndCopy := by
  refine fun x y nn s => ⟨?load, ?add, ?copy⟩
  case load => exact completes_of_writeV rfl fun _ hv hpc => ⟨hv, hpc⟩
  case add => exact completes_of_writeV rfl fun _ hv hpc => ⟨hv ▸ BitVec.toNat_add (s.readV x) nn, hpc⟩
  case copy => exact completes_of_writeV rfl fun _ hv hpc => ⟨hv, hpc⟩

/-- Settles O29: each is one register write, of the bitwise combination of V[X] and V[Y]. -/
theorem logicIsBitwiseWithoutFlag : Obligations.LogicIsBitwiseWithoutFlag := by
  refine fun x y s => ⟨?or, ?and, ?xor⟩
  case or => exact completes_of_writeV rfl fun _ hv hpc => ⟨hpc, fun _ _ => hv ▸ BitVec.getLsbD_or⟩
  case and => exact completes_of_writeV rfl fun _ hv hpc => ⟨hpc, fun _ _ => hv ▸ BitVec.getLsbD_and⟩
  case xor => exact completes_of_writeV rfl fun _ hv hpc => ⟨hpc, fun _ _ => hv ▸ BitVec.getLsbD_xor⟩

end Sys2Proof.Proofs
end

section
/-! Proofs about the address register, load and store (43): an instruction that is one write of I, a block of bytes
stored from I on, and the blocks of registers that FX55 and FX65 move. -/

namespace Sys2Proof.Proofs

open Sys2Proof.Machine Sys2Proof.Laws

/-! ### One write of I and PC + 2 -/

theorem samePart_setI {s t : State} {p : Part} (a : Word) (hp : p ≠ .i) (h : samePart s t p) :
    samePart s (t.setI a) p := by
  cases p with
  | i => exact absurd rfl hp
  | _ => exact h

/-- An instruction whose meaning is to write a to I and advance keeps every part but I and PC; what it leaves is known
from the two new values. -/
theorem completes_of_setI {i : Instr} {s : State} {a : Word} {post : State → Prop}
    (he : exec i s = complete false (s.setI a).advance) (hpost : ∀ t : State, t.i = a → t.pc = s.pc + 2 → post t) :
    completes i s false (fun p => p = .i ∨ p = .pc) post := by
  refine completes_of_complete he (fun p hp => ?_) (hpost _ rfl rfl)
  obtain ⟨hi, hpc⟩ := not_or.1 hp
  exact samePart_setPc _ hpc (samePart_setI a hi (samePart_refl s p))

theorem toNat_word_of_lt {n : Nat} (h : n < 65536) : (BitVec.ofNat 16 n).toNat = n :=
  (BitVec.toNat_ofNat n 16).trans (Nat.mod_eq_of_lt h)

/-- Settles O34: each is one write of I, of a number that 16 bits hold. -/
theorem addressRegisterInstructions : Obligations.AddressRegisterInstructions := by
  refine fun x nnn s => ⟨?load, ?add, ?font⟩
  case load => exact completes_of_setI rfl fun _ hi hpc => ⟨hi ▸ toNat_addressOf nnn, hpc⟩
  case add =>
    have hsum : (s.i.toNat + (s.readV x).toNat) % 4096 < 65536 := by omega
    exact completes_of_setI rfl fun _ hi hpc => ⟨hi ▸ toNat_word_of_lt hsum, hpc⟩
  case font =>
    have hglyph : (s.readV x).toNat * 5 < 65536 := by omega
    exact completes_of_setI rfl fun _ hi hpc => ⟨hi ▸ toNat_word_of_lt hglyph, hpc⟩

/-! ### A block of bytes at I -/

theorem dataAddress_eq_add (s : State) (k : Nat) : s.dataAddress k = s.dataAddress 0 + k := rfl

/-- The k + 1 bytes from I on are inside MEM when the last of them is (R41, R137). -/
theorem inBounds_dataAddress_iff (s : State) (k : Nat) :
    inBounds (s.dataAddress 0) (k + 1) = true ↔ s.i.toNat + k ≤ 4095 := by
  simp only [inBounds_iff, State.dataAddress, memSize]
  omega

/-- The two answers of an access to the k + 1 bytes from I on, told apart by the address of the last byte. -/
theorem answers_of_inBounds_cases {s : State} {k : Nat} {inside outside : Prop}
    (h : (inBounds (s.dataAddress 0) (k + 1) = true ∧ inside) ∨
      (inBounds (s.dataAddress 0) (k + 1) = false ∧ outside)) :
    (s.i.toNat + k ≤ 4095 → inside) ∧ (s.i.toNat + k > 4095 → outside) := by
  rw [← Bool.not_eq_true, inBounds_dataAddress_iff] at h
  obtain ⟨hin, hinside⟩ | ⟨hout, houtside⟩ := h
  · exact ⟨fun _ => hinside, fun hgt => absurd hin (by omega)⟩
  · exact ⟨fun hle => absurd hle hout, fun _ => houtside⟩

/-- The state after bytes are stored from I on. -/
def stored (s : State) (bytes : List Byte) : State :=
  { s with mem := Memory.writeBytes s.config.font s.mem (s.dataAddress 0) bytes }

@[simp] theorem stored_i (s : State) (bytes : List Byte) : (stored s bytes).i = s.i := rfl
@[simp] theorem stored_config (s : State) (bytes : List Byte) : (stored s bytes).config = s.config := rfl

section
variable {s : State} {bytes : List Byte}

/-- A block store keeps every part but the cells from I to the block's last address. -/
theorem samePart_stored {k : Nat} (hlen : bytes.length = k + 1) {p : Part}
    (hp : ¬ ∃ a, p = .mem a ∧ s.dataAddress 0 ≤ a ∧ a ≤ s.dataAddress k) : samePart s (stored s bytes) p := by
  cases p with
  | mem a =>
    have hout : ¬ (s.dataAddress 0 ≤ a ∧ a ≤ s.dataAddress k) := fun h => hp ⟨a, rfl, h⟩
    rw [dataAddress_eq_add s k] at hout
    exact read_writeBytes_other s.mem bytes (by omega)
  | _ => rfl

/-- Byte j of a block that is stored inside MEM reads back at I + j. -/
theorem byteAt_stored (hw : Memory.wf s.config.font s.mem = true) (hin : inBounds (s.dataAddress 0) bytes.length = true)
    {j : Nat} (hj : j < bytes.length) : (stored s bytes).byteAt (s.dataAddress j) = bytes[j] := by
  have hroom : s.dataAddress 0 + bytes.length ≤ memSize := ((inBounds_iff _ _).1 hin).resolve_left (by omega)
  exact read_writeBytes hw hroom hj

end

/-! ### FX33 -/

theorem exec_ldBVx {x : Reg} {s : State} (h : s.i.toNat + 2 ≤ 4095) :
    exec (.ldBVx x) s = complete false (stored s (bcdDigits (s.readV x))).advance :=
  (answers_of_inBounds_cases (execLdBVx_cases x s)).1 h

theorem raises_ldBVx {x : Reg} {s : State} (h : s.i.toNat + 2 > 4095) : raises (.ldBVx x) s .memoryBoundsError :=
  (answers_of_inBounds_cases (execLdBVx_cases x s)).2 h

@[simp] theorem length_bcdDigits (b : Byte) : (bcdDigits b).length = 3 := rfl

/-- The three digits are exact: each fits a byte (R133). -/
theorem toNat_getElem_bcdDigits (b : Byte) :
    (bcdDigits b)[0].toNat = b.toNat / 100 ∧ (bcdDigits b)[1].toNat = b.toNat / 10 % 10 ∧
      (bcdDigits b)[2].toNat = b.toNat % 10 := by
  have hb : b.toNat < 256 := b.isLt
  simp only [bcdDigits, List.getElem_cons_zero, List.getElem_cons_succ, BitVec.toNat_ofNat]
  omega

/-- Settles O35: the completing case stores the three digits as one block, each read back at its data address; the other
case raises. -/
theorem bcdStoresThreeDigits : Obligations.BcdStoresThreeDigits := by
  refine fun x s hw => ⟨fun h => completes_of_complete (exec_ldBVx h) (fun p hp => ?frame) ?digits, raises_ldBVx⟩
  case frame =>
    obtain ⟨hpc, hmem⟩ := not_or.1 hp
    exact samePart_setPc _ hpc (samePart_stored rfl hmem)
  case digits =>
    have hin : inBounds (s.dataAddress 0) (bcdDigits (s.readV x)).length = true := (inBounds_dataAddress_iff s 2).2 h
    obtain ⟨hundreds, tens, units⟩ := toNat_getElem_bcdDigits (s.readV x)
    exact ⟨byteAt_stored hw hin (j := 0) (by simp) ▸ hundreds, byteAt_stored hw hin (j := 1) (by simp) ▸ tens,
      byteAt_stored hw hin (j := 2) (by simp) ▸ units, rfl⟩

/-! ### The blocks of registers -/

theorem getElem_firstRegs (s : State) {x j : Reg} (h : j.val < (s.firstRegs x).length) :
    (s.firstRegs x)[j.val] = s.readV j := by
  simp [State.firstRegs, State.readV]

@[simp] theorem readV_stepI (s : State) (x j : Reg) : (s.stepI x).readV j = s.readV j := readV_setI s _ j

/-- After a block inside MEM is moved, with I and the policy still those of s, I moves by X + 1 or not at all, and the
sum is exact (R136). -/
theorem toNat_stepI_i {s t : State} {x : Reg} (hi : t.i = s.i) (hconfig : t.config = s.config)
    (h : s.i.toNat + x.val ≤ 4095) :
    (t.stepI x).i.toNat = s.i.toNat + if s.config.loadStoreIncrementsI then x.val + 1 else 0 := by
  have hx : x.val < 16 := x.isLt
  rw [stepI_i, hi, hconfig, BitVec.toNat_add, BitVec.toNat_ofNat, cond_eq_ite]
  split <;> omega

/-- A block load keeps every part but the registers it has a byte for. -/
theorem samePart_loadRegs {s : State} {x : Reg} {bytes : List Byte} (hlen : bytes.length = x.val + 1) {p : Part}
    (hp : ¬ ∃ j, p = .v j ∧ j ≤ x) : samePart s (s.loadRegs bytes) p := by
  cases p with
  | v j =>
    have habove : ¬ j.val ≤ x.val := fun h => hp ⟨j, rfl, h⟩
    have hnone : bytes.length ≤ j.val := by omega
    exact (readV_loadRegs s bytes j).trans (List.getD_eq_default _ _ hnone)
  | _ => simp [samePart, State.byteAt]

/-- The end that FX55 and FX65 share, I by the policy and then PC + 2, changes I and PC only. -/
theorem samePart_stepI_advance {s t : State} {p : Part} (x : Reg) (hpc : p ≠ .pc) (hi : p ≠ .i) (h : samePart s t p) :
    samePart s (t.stepI x).advance p :=
  samePart_setPc _ hpc (samePart_setI _ hi h)

theorem exec_ldMiVx {x : Reg} {s : State} (h : s.i.toNat + x.val ≤ 4095) :
    exec (.ldMiVx x) s = complete false ((stored s (s.firstRegs x)).stepI x).advance :=
  (answers_of_inBounds_cases (execLdMiVx_cases x s)).1 h

theorem raises_ldMiVx {x : Reg} {s : State} (h : s.i.toNat + x.val > 4095) :
    raises (.ldMiVx x) s .memoryBoundsError :=
  (answers_of_inBounds_cases (execLdMiVx_cases x s)).2 h

/-- The X + 1 bytes from I on, which FX65 loads (R135). -/
def bytesAtI (s : State) (x : Reg) : List Byte :=
  Memory.readBytes s.config.font s.mem (s.dataAddress 0) (x.val + 1)

theorem exec_ldVxMi {x : Reg} {s : State} (h : s.i.toNat + x.val ≤ 4095) :
    exec (.ldVxMi x) s = complete false ((s.loadRegs (bytesAtI s x)).stepI x).advance :=
  (answers_of_inBounds_cases (execLdVxMi_cases x s)).1 h

theorem raises_ldVxMi {x : Reg} {s : State} (h : s.i.toNat + x.val > 4095) :
    raises (.ldVxMi x) s .memoryBoundsError :=
  (answers_of_inBounds_cases (execLdVxMi_cases x s)).2 h

/-- A register up to VX takes the byte at I + j. -/
theorem readV_loadRegs_bytesAtI (s : State) {x j : Reg} (h : j ≤ x) :
    (s.loadRegs (bytesAtI s x)).readV j = s.byteAt (s.dataAddress j.val) := by
  have hj : j.val < (bytesAtI s x).length := by
    rw [bytesAtI, length_readBytes]
    exact Nat.lt_succ_of_le h
  rw [readV_loadRegs, List.getD_eq_getElem _ _ hj]
  exact getElem_readBytes s.mem _ hj

/-- Settles O36: the completing case stores the first registers as one block, each read back at its data address, and
moves I; the other case raises. -/
theorem blockStoreWritesRegisters : Obligations.BlockStoreWritesRegisters := by
  refine fun x s hw => ⟨fun h => completes_of_complete (exec_ldMiVx h) (fun p hp => ?frame) ⟨?bytes, rfl, ?index⟩,
    raises_ldMiVx⟩
  case frame =>
    obtain ⟨hpc, hi, hmem⟩ : p ≠ .pc ∧ p ≠ .i ∧ _ := by simpa only [not_or] using hp
    exact samePart_stepI_advance x hpc hi (samePart_stored (length_firstRegs s x) hmem)
  case bytes =>
    intro j hj
    have hlen := length_firstRegs s x
    have hin : inBounds (s.dataAddress 0) (s.firstRegs x).length = true := by
      rw [hlen]; exact (inBounds_dataAddress_iff s x.val).2 h
    have hj' : j.val < (s.firstRegs x).length := hlen ▸ Nat.lt_succ_of_le hj
    exact (byteAt_stored hw hin hj').trans (getElem_firstRegs s hj')
  case index => rw [report_i, advance_i, toNat_stepI_i (stored_i s _) (stored_config s _) h]

/-- Settles O37: the completing case loads the block at I into the registers up to VX and moves I; the other case
raises. -/
theorem blockLoadReadsRegisters : Obligations.BlockLoadReadsRegisters := by
  refine fun x s => ⟨fun h => completes_of_complete (exec_ldVxMi h) (fun p hp => ?frame)
    ⟨?registers, ?pc, ?index⟩, raises_ldVxMi⟩
  case frame =>
    obtain ⟨hpc, hi, hv⟩ : p ≠ .pc ∧ p ≠ .i ∧ _ := by simpa only [not_or] using hp
    exact samePart_stepI_advance x hpc hi (samePart_loadRegs (length_readBytes s.mem _ _) hv)
  case pc => rw [report_pc, advance_pc, stepI_pc, loadRegs_pc]
  case registers =>
    intro j hj
    rw [readV_report, readV_advance, readV_stepI, readV_loadRegs_bytesAtI s hj]
  case index => rw [report_i, advance_i, toNat_stepI_i (loadRegs_i s _) (loadRegs_config s _) h]

end Sys2Proof.Proofs
end

section
/-! Proofs about the display (44): what a write of PIX keeps, and the instruction that turns every cell off. -/

namespace Sys2Proof.Proofs

open Sys2Proof.Machine Sys2Proof.Laws

/-- A write of the whole display keeps every part but the cells it gives another value. -/
theorem samePart_setPix {s t : State} {p : Part} (d : Display)
    (hp : ∀ x y, p = .pix x y → d.cell x y = t.pix.cell x y) (h : samePart s t p) : samePart s (t.setPix d) p := by
  cases p with
  | pix x y => exact (hp x y rfl).trans h
  | _ => exact h

/-- Settles O40: 00E0 is a write of the blank display and the move to the next word. -/
theorem clearTurnsEveryCellOff : Obligations.ClearTurnsEveryCellOff := by
  refine fun s => completes_of_complete (t := (s.setPix blankDisplay).advance) rfl (fun p hp => ?frame)
    ⟨cell_blankDisplay, rfl⟩
  case frame =>
    obtain ⟨hpc, hpix⟩ := not_or.1 hp
    exact samePart_setPc _ hpc
      (samePart_setPix _ (fun x y e => absurd ⟨x, y, e⟩ hpix) (samePart_refl s p))

end Sys2Proof.Proofs
end

section
/-! Proofs about the timers (45): what a write of DT or of ST keeps, and the three instructions that move a timer to or
from a register. -/

namespace Sys2Proof.Proofs

open Sys2Proof.Machine Sys2Proof.Laws

/-! ### The frame of a timer write -/

theorem samePart_setDt {s t : State} {p : Part} (b : Byte) (hp : p ≠ .dt) (h : samePart s t p) :
    samePart s (t.setDt b) p := by
  cases p with
  | dt => exact absurd rfl hp
  | _ => exact h

theorem samePart_setSt {s t : State} {p : Part} (b : Byte) (hp : p ≠ .st) (h : samePart s t p) :
    samePart s (t.setSt b) p := by
  cases p with
  | st => exact absurd rfl hp
  | _ => exact h

/-! ### One timer moved and PC + 2 -/

/-- An instruction whose meaning is to change the one part q and advance keeps every part but q and PC. -/
theorem completes_of_advance {i : Instr} {s t : State} {q : Part} {post : State → Prop}
    (he : exec i s = complete false t.advance) (frame : ∀ p, p ≠ q → samePart s t p)
    (hpost : post (t.advance.report ⟨.ok, false⟩)) :
    completes i s false (fun p => p = q ∨ p = .pc) post := by
  refine completes_of_complete he (fun p hp => ?_) hpost
  obtain ⟨hq, hpc⟩ := not_or.1 hp
  exact samePart_setPc _ hpc (frame p hq)

/-- Settles O44: FX07 is one register write, FX15 and FX18 each the write of one timer with V[X] in place of its old
value. -/
theorem timerInstructions : Obligations.TimerInstructions := by
  refine fun x s => ⟨?readDt, ?setDt, ?setSt⟩
  case readDt => exact completes_of_writeV rfl fun _ hv hpc => ⟨hv, hpc⟩
  case setDt =>
    exact completes_of_advance (t := s.setDt (s.readV x)) rfl
      (fun p hp => samePart_setDt _ hp (samePart_refl s p)) ⟨rfl, rfl⟩
  case setSt =>
    exact completes_of_advance (t := s.setSt (s.readV x)) rfl
      (fun p hp => samePart_setSt _ hp (samePart_refl s p)) ⟨rfl, rfl⟩

end Sys2Proof.Proofs
end

section
/-! Proofs about errors (60): the step at an unmatched word, every answer an instruction can give with the fatal error it
raises, and from it the causes of Halted(e) after a running step. -/

namespace Sys2Proof.Proofs

open Sys2Proof.Machine Sys2Proof.Laws

/-! ### The fetched word -/

/-- The first byte is the high one (R44): two bytes side by side are the number 256 · high + low. -/
theorem wordAt_eq_append (s : State) (a : Nat) : wordAt s a = s.byteAt a ++ s.byteAt (a + 1) := by
  have hhigh : (s.byteAt a).toNat < 256 := (s.byteAt a).isLt
  have hlow : (s.byteAt (a + 1)).toNat < 2 ^ 8 := (s.byteAt (a + 1)).isLt
  apply BitVec.eq_of_toNat_eq
  rw [wordAt, BitVec.toNat_ofNat, BitVec.toNat_append, ← Nat.shiftLeft_add_eq_or_of_lt hlow, Nat.shiftLeft_eq]
  omega

theorem fetchWord_eq_wordAt {s : State} (h : s.pc.toNat < 4095) : fetchWord s = some (wordAt s s.pc.toNat) :=
  fetchWord_eq_some.2 ⟨Nat.le_of_lt_succ h, wordAt_eq_append s _⟩

/-! ### An unmatched word -/

theorem runningStep_unmatched {s : State} {op : Word} (hf : fetchWord s = some op) (hd : decodeWord op = none) :
    runningStep s = execUnmatched s := by
  simp [runningStep, hf, hd]

/-- Settles O9: the fetch is in bounds and its word does not decode, so the step is `execUnmatched`. -/
theorem unmatchedWordReportsOpcodeError : Obligations.UnmatchedWordReportsOpcodeError := by
  refine ⟨fun s hrun hpc hd => ?_, by decide⟩
  calc step s = runningStep s := step_running hrun
    _ = execUnmatched s := runningStep_unmatched (fetchWord_eq_wordAt hpc) hd

/-! ### Which instruction raises which error -/

section
variable {s : State} {e : FatalError}

theorem raisesIn_callNnn_iff {nnn : Imm12} :
    raisesIn (.callNnn nnn) s e ↔ s.sp.val = 16 ∧ e = .stackOverflowError := by
  cases e <;> simp [raisesIn]

theorem raisesIn_ret_iff : raisesIn .ret s e ↔ s.sp.val = 0 ∧ e = .stackUnderflowError := by
  cases e <;> simp [raisesIn]

theorem raisesIn_drwVxVyN_iff {x y : Reg} {n : Nat} :
    raisesIn (.drwVxVyN x y n) s e ↔ (1 ≤ n ∧ s.i.toNat + n - 1 > 4095) ∧ e = .memoryBoundsError := by
  cases e <;> simp [raisesIn]

theorem raisesIn_ldBVx_iff {x : Reg} :
    raisesIn (.ldBVx x) s e ↔ s.i.toNat + 2 > 4095 ∧ e = .memoryBoundsError := by
  cases e <;> simp [raisesIn]

theorem raisesIn_ldMiVx_iff {x : Reg} :
    raisesIn (.ldMiVx x) s e ↔ s.i.toNat + x.val > 4095 ∧ e = .memoryBoundsError := by
  cases e <;> simp [raisesIn]

theorem raisesIn_ldVxMi_iff {x : Reg} :
    raisesIn (.ldVxMi x) s e ↔ s.i.toNat + x.val > 4095 ∧ e = .memoryBoundsError := by
  cases e <;> simp [raisesIn]

end

/-- R173: only 2NNN has StackOverflowError among its errors. -/
theorem raisesIn_stackOverflowError_iff {i : Instr} {s : State} :
    raisesIn i s .stackOverflowError ↔ s.sp.val = 16 ∧ ∃ nnn, i = .callNnn nnn := by
  cases i <;> simp [raisesIn]

/-- R174: only 00EE has StackUnderflowError among its errors. -/
theorem raisesIn_stackUnderflowError_iff {i : Instr} {s : State} :
    raisesIn i s .stackUnderflowError ↔ s.sp.val = 0 ∧ i = .ret := by
  cases i <;> simp [raisesIn]

/-! ### The two answers of DXYN -/

/-- The n row bytes from I on leave MEM exactly when there is a row and the last one is outside (R175). -/
theorem inBounds_dataAddress_eq_false_iff (s : State) (n : Nat) :
    inBounds (s.dataAddress 0) n = false ↔ 1 ≤ n ∧ s.i.toNat + n - 1 > 4095 := by
  rw [← Bool.not_eq_true, inBounds_iff, State.dataAddress, memSize]
  omega

theorem exec_drwVxVyN {x y : Reg} {n : Nat} {s : State} (h : ¬ (1 ≤ n ∧ s.i.toNat + n - 1 > 4095)) :
    exec (.drwVxVyN x y n) s =
      complete true ((s.setPix (drawn s x y n).1).writeV regF (flagByte (drawn s x y n).2)).advance := by
  obtain ⟨_, he⟩ | ⟨hout, _⟩ := execDrwVxVyN_cases x y n s
  · exact he
  · exact absurd ((inBounds_dataAddress_eq_false_iff s n).1 hout) h

theorem raises_drwVxVyN {x y : Reg} {n : Nat} {s : State} (h : 1 ≤ n ∧ s.i.toNat + n - 1 > 4095) :
    raises (.drwVxVyN x y n) s .memoryBoundsError := by
  obtain ⟨hin, _⟩ | ⟨_, he⟩ := execDrwVxVyN_cases x y n s
  · simp [(inBounds_dataAddress_eq_false_iff s n).2 h] at hin
  · exact he

/-! ### Every answer an instruction can give -/

/-- i, executed from s, completes without raising: `raisesIn` names no error, and RUN is kept or the key wait entered. -/
def runsToCompletion (i : Instr) (s : State) : Prop :=
  (∀ e, ¬ raisesIn i s e) ∧ ∃ d t, exec i s = complete d t ∧ (t.run = s.run ∨ ∃ x, t.run = .waitingForKey x)

/-- i, executed from s, raises the one error `raisesIn` names. -/
def raisesItsError (i : Instr) (s : State) : Prop := ∃ e, (∀ e', raisesIn i s e' ↔ e' = e) ∧ raises i s e

/-- An instruction with one cause of one error raises it under that cause and otherwise completes. -/
theorem completion_or_error_of_cause {i : Instr} {s : State} {cause : Prop} {e : FatalError}
    (hcause : ∀ e', raisesIn i s e' ↔ cause ∧ e' = e) (hraises : cause → raises i s e)
    (hcompletes : ¬ cause → ∃ d t, exec i s = complete d t ∧ t.run = s.run) :
    runsToCompletion i s ∨ raisesItsError i s := by
  by_cases hc : cause
  · exact .inr ⟨e, fun e' => by simp [hcause, hc], hraises hc⟩
  · obtain ⟨d, t, he, hrun⟩ := hcompletes hc
    exact .inl ⟨fun e' => by simp [hcause, hc], d, t, he, .inl hrun⟩

/-- Everything an instruction can answer: it completes, or it raises its error (R172 to R175). -/
theorem exec_completion_or_error (i : Instr) (s : State) : runsToCompletion i s ∨ raisesItsError i s := by
  cases i with
  | callNnn nnn =>
    have hle : s.sp.val ≤ 16 := Nat.le_of_lt_succ s.sp.isLt
    exact completion_or_error_of_cause (fun _ => raisesIn_callNnn_iff) (raises_callNnn nnn)
      fun h => ⟨_, _, exec_callNnn nnn (lt_of_le_of_ne hle h), rfl⟩
  | ret =>
    exact completion_or_error_of_cause (fun _ => raisesIn_ret_iff) raises_ret
      fun h => ⟨_, _, exec_ret (Nat.pos_of_ne_zero h), rfl⟩
  | drwVxVyN x y n =>
    exact completion_or_error_of_cause (fun _ => raisesIn_drwVxVyN_iff) raises_drwVxVyN
      fun h => ⟨_, _, exec_drwVxVyN h, rfl⟩
  | ldBVx x =>
    exact completion_or_error_of_cause (fun _ => raisesIn_ldBVx_iff) raises_ldBVx
      fun h => ⟨_, _, exec_ldBVx (Nat.le_of_not_gt h), rfl⟩
  | ldMiVx x =>
    exact completion_or_error_of_cause (fun _ => raisesIn_ldMiVx_iff) raises_ldMiVx
      fun h => ⟨_, _, exec_ldMiVx (Nat.le_of_not_gt h), rfl⟩
  | ldVxMi x =>
    exact completion_or_error_of_cause (fun _ => raisesIn_ldVxMi_iff) raises_ldVxMi
      fun h => ⟨_, _, exec_ldVxMi (Nat.le_of_not_gt h), by simp⟩
  | ldVxK x => exact .inl ⟨fun e => by cases e <;> simp [raisesIn], _, _, rfl, .inr ⟨x, rfl⟩⟩
  | _ => exact .inl ⟨fun e => by cases e <;> simp [raisesIn], _, _, rfl, .inl rfl⟩

/-! ### The causes of Halted(e) -/

/-- An instruction executed with RUN = Running ends in Halted(e) exactly when it raises e. -/
theorem exec_halted_iff {i : Instr} {s t : State} {e : FatalError} (hrun : s.run = .running)
    (he : exec i s = .next t) : t.run = .halted e ↔ raisesIn i s e := by
  obtain ⟨hnone, d, u, hu, hends⟩ | ⟨e', hone, hraises⟩ := exec_completion_or_error i s
  · obtain rfl : u.report ⟨.ok, d⟩ = t := Host.Outcome.next.inj (hu.symm.trans he)
    refine iff_of_false ?_ (hnone e)
    obtain hkept | ⟨x, hwait⟩ := hends
    · simp [hkept, hrun]
    · simp [hwait]
  · obtain rfl : haltedWith e' s = t := Host.Outcome.next.inj (hraises.symm.trans he)
    simp [haltedWith, hone, eq_comm]

theorem instructionAt_eq_decodeWord {s : State} {op : Word} (hf : fetchWord s = some op) :
    instructionAt s = decodeWord op := by
  simp [instructionAt, hf]

theorem instructionAt_eq_none_of_pc {s : State} (hpc : 4095 ≤ s.pc.toNat) : instructionAt s = none := by
  simp [instructionAt, fetchWord_eq_none.2 hpc]

/-- A running step ends in Halted(e) exactly when the fetch raises e or the instruction at PC does. -/
theorem step_halted_iff {s t : State} {e : FatalError} (hrun : s.run = .running)
    (hstep : step s = .next t) : t.run = .halted e ↔
      (4095 ≤ s.pc.toNat ∧ e = .memoryBoundsError) ∨ ∃ i, instructionAt s = some i ∧ raisesIn i s e := by
  rw [step_running hrun] at hstep
  obtain ⟨hpc, he⟩ | ⟨op, i, hf, hd, he⟩ | ⟨op, hf, hd, he⟩ := runningStep_cases s
  · obtain rfl : haltedWith .memoryBoundsError s = t := Host.Outcome.next.inj (he.symm.trans hstep)
    simp [instructionAt_eq_none_of_pc hpc, hpc, haltedWith, eq_comm]
  · have hpc : ¬ 4095 ≤ s.pc.toNat := fetchWord_eq_none.not.1 (by simp [hf])
    simp [instructionAt_eq_decodeWord hf, hd, hpc, exec_halted_iff hrun (he.symm.trans hstep)]
  · obtain rfl : s.advance.report ⟨.opcodeError, false⟩ = t := Host.Outcome.next.inj (he.symm.trans hstep)
    have hpc : ¬ 4095 ≤ s.pc.toNat := fetchWord_eq_none.not.1 (by simp [hf])
    simp [instructionAt_eq_decodeWord hf, hd, hpc, hrun]

/-- Settles O14: neither error is the fetch's, and each is named by `raisesIn` for one instruction only. -/
theorem stackErrorsHaveExactlyTheirCauses : Obligations.StackErrorsHaveExactlyTheirCauses := by
  refine fun s t hrun hstep => ⟨?overflow, ?underflow⟩
  case overflow => simp [step_halted_iff hrun hstep, raisesIn_stackOverflowError_iff, and_comm]
  case underflow => simp [step_halted_iff hrun hstep, raisesIn_stackUnderflowError_iff, and_comm]

end Sys2Proof.Proofs
end

section
/-! Proofs about the encoding (30): decoding and encoding are inverse, the decoder is the opcode map of R63, and the
words that it leaves unmatched. -/

namespace Sys2Proof.Proofs

open Sys2Proof.Laws

/-! ### Decoding an encoded instruction -/

/-- A row count that four bits hold comes back from its field (R64). -/
theorem fieldN_formatR {op : BitVec 4} {x y : Reg} {n : Nat} (h : n ≤ 15) :
    fieldN (formatR op x y (BitVec.ofNat 4 n)) = n := by
  rw [fieldN, fieldFn_formatR, BitVec.toNat_ofNat, Nat.mod_eq_of_lt (by omega)]

theorem decodeWord_encode {i : Instr} (hwf : i.wf = true) : decodeWord (encode i) = some i := by
  cases i with
  | cls => rfl
  | ret => rfl
  | drwVxVyN x y n =>
    have hn : n ≤ 15 := of_decide_eq_true hwf
    simp [encode, decodeWord, fieldN_formatR hn]
  | _ => simp [encode, decodeWord, decodeFamily8, decodeFamilyE, decodeFamilyF]

/-- Settles O1: each format gives its fields back, and the level of the decoder that reads them is the family's. -/
theorem decodeInvertsEncode : Obligations.DecodeInvertsEncode := fun _ => decodeWord_encode

/-! ### Encoding a decoded instruction -/

/-- i is a reading of w that loses no bit: well-formed, and w is its word. -/
def isWordOf (w : Word) (i : Instr) : Prop := i.wf = true ∧ encode i = w

section
variable {w : Word} {i : Instr} {k : BitVec 4}

theorem formatA_of_topNibble (htop : topNibble w = k) : formatA k (fieldNNN w) = w := htop ▸ formatA_fields w

theorem formatI_of_topNibble (htop : topNibble w = k) : formatI k (fieldX w) (fieldNN w) = w := htop ▸ formatI_fields w

theorem formatI_of_fields {nn : Byte} (htop : topNibble w = k) (hnn : fieldNN w = nn) :
    formatI k (fieldX w) nn = w := hnn ▸ formatI_of_topNibble htop

theorem formatR_of_fields {fn : BitVec 4} (htop : topNibble w = k) (hfn : fieldFn w = fn) :
    formatR k (fieldX w) (fieldY w) fn = w := htop ▸ hfn ▸ formatR_fields w

theorem isWordOf_of_decodeFamily0 (hd : decodeFamily0 w = some i) : isWordOf w i := by
  unfold decodeFamily0 at hd
  split at hd
  next hw => cases hd; exact ⟨rfl, hw.symm⟩
  next =>
    split at hd
    next hw => cases hd; exact ⟨rfl, hw.symm⟩
    next => cases hd

theorem isWordOf_of_decodeFamily8 (htop : topNibble w = 0x8) (hd : decodeFamily8 w = some i) : isWordOf w i := by
  unfold decodeFamily8 at hd
  split at hd <;> cases hd <;> exact ⟨rfl, formatR_of_fields htop ‹_›⟩

theorem isWordOf_of_decodeFamilyE (htop : topNibble w = 0xE) (hd : decodeFamilyE w = some i) : isWordOf w i := by
  unfold decodeFamilyE at hd
  split at hd <;> cases hd <;> exact ⟨rfl, formatI_of_fields htop ‹_›⟩

theorem isWordOf_of_decodeFamilyF (htop : topNibble w = 0xF) (hd : decodeFamilyF w = some i) : isWordOf w i := by
  unfold decodeFamilyF at hd
  split at hd <;> cases hd <;> exact ⟨rfl, formatI_of_fields htop ‹_›⟩

/-- A drawn row count is the number of its four bits, so it is in range and encodes to them. -/
theorem isWordOf_drwVxVyN (htop : topNibble w = 0xD) :
    isWordOf w (.drwVxVyN (fieldX w) (fieldY w) (fieldN w)) := by
  have hbits : BitVec.ofNat 4 (fieldN w) = fieldFn w := by rw [fieldN, BitVec.ofNat_toNat, BitVec.setWidth_eq]
  exact ⟨decide_eq_true (Nat.le_of_lt_succ (fieldFn w).isLt), formatR_of_fields htop hbits.symm⟩

theorem isWordOf_of_decodeWord (hd : decodeWord w = some i) : isWordOf w i := by
  unfold decodeWord at hd
  split at hd
  case h_1 => exact isWordOf_of_decodeFamily0 hd
  case h_2 htop | h_3 htop | h_11 htop | h_12 htop => cases hd; exact ⟨rfl, formatA_of_topNibble htop⟩
  case h_4 htop | h_5 htop | h_7 htop | h_8 htop | h_13 htop => cases hd; exact ⟨rfl, formatI_of_topNibble htop⟩
  case h_6 htop | h_10 htop =>
    obtain ⟨hfn, he⟩ := Option.ite_none_right_eq_some.1 hd
    cases he
    exact ⟨rfl, formatR_of_fields htop hfn⟩
  case h_9 htop => exact isWordOf_of_decodeFamily8 htop hd
  case h_14 htop => cases hd; exact isWordOf_drwVxVyN htop
  case h_15 htop => exact isWordOf_of_decodeFamilyE htop hd
  case h_16 htop => exact isWordOf_of_decodeFamilyF htop hd
  case h_17 => cases hd

end

/-- Settles O2: in each family the operands are the fields of the word, and the fields together are the word. -/
theorem encodeInvertsDecode : Obligations.EncodeInvertsDecode := fun _ _ => isWordOf_of_decodeWord

/-! ### The opcode map -/

section
variable {w : Word}

/-- Every instruction's word has the fixed digits of its pattern: the per-instruction laws, gathered. -/
theorem encodesPattern : ∀ i : Instr, EncodesPattern.Statement i
  | .cls => EncodesPattern.cls
  | .ret => EncodesPattern.ret
  | .jpNnn nnn => EncodesPattern.jpNnn nnn
  | .callNnn nnn => EncodesPattern.callNnn nnn
  | .seVxNn x nn => EncodesPattern.seVxNn x nn
  | .sneVxNn x nn => EncodesPattern.sneVxNn x nn
  | .seVxVy x y => EncodesPattern.seVxVy x y
  | .ldVxNn x nn => EncodesPattern.ldVxNn x nn
  | .addVxNn x nn => EncodesPattern.addVxNn x nn
  | .ldVxVy x y => EncodesPattern.ldVxVy x y
  | .orVxVy x y => EncodesPattern.orVxVy x y
  | .andVxVy x y => EncodesPattern.andVxVy x y
  | .xorVxVy x y => EncodesPattern.xorVxVy x y
  | .addVxVy x y => EncodesPattern.addVxVy x y
  | .subVxVy x y => EncodesPattern.subVxVy x y
  | .shrVx x y => EncodesPattern.shrVx x y
  | .subnVxVy x y => EncodesPattern.subnVxVy x y
  | .shlVx x y => EncodesPattern.shlVx x y
  | .sneVxVy x y => EncodesPattern.sneVxVy x y
  | .ldINnn nnn => EncodesPattern.ldINnn nnn
  | .jpV0Nnn nnn => EncodesPattern.jpV0Nnn nnn
  | .rndVxNn x nn => EncodesPattern.rndVxNn x nn
  | .drwVxVyN x y n => EncodesPattern.drwVxVyN x y n
  | .skpVx x => EncodesPattern.skpVx x
  | .sknpVx x => EncodesPattern.sknpVx x
  | .ldVxDt x => EncodesPattern.ldVxDt x
  | .ldVxK x => EncodesPattern.ldVxK x
  | .ldDtVx x => EncodesPattern.ldDtVx x
  | .ldStVx x => EncodesPattern.ldStVx x
  | .addIVx x => EncodesPattern.addIVx x
  | .ldFVx x => EncodesPattern.ldFVx x
  | .ldBVx x => EncodesPattern.ldBVx x
  | .ldMiVx x => EncodesPattern.ldMiVx x
  | .ldVxMi x => EncodesPattern.ldVxMi x

theorem row_mem_opcodeMap (i : Instr) : i.row ∈ opcodeMap := by
  cases i <;> simp [Instr.row, opcodeMap]

theorem row_matchesWord_of_decodeWord {w : Word} {i : Instr} (hd : decodeWord w = some i) :
    i.row.matchesWord w = true := by
  obtain ⟨_, rfl⟩ := isWordOf_of_decodeWord hd
  exact beq_iff_eq.2 (encodesPattern i)

/-- Two rows that one word matches agree on the digits that both fix, and no two of the 34 do. -/
theorem row_unique {w : Word} {r q : OpcodeRow} (hr : r ∈ opcodeMap) (hq : q ∈ opcodeMap)
    (hrw : r.matchesWord w = true) (hqw : q.matchesWord w = true) : r = q := by
  have hagree : r.value &&& q.mask = q.value &&& r.mask := by
    rw [← beq_iff_eq.1 hrw, ← beq_iff_eq.1 hqw, BitVec.and_assoc, BitVec.and_assoc, BitVec.and_comm r.mask]
  have hdisjoint : ∀ r ∈ opcodeMap, ∀ q ∈ opcodeMap, r.value &&& q.mask = q.value &&& r.mask → r = q := by decide
  exact hdisjoint r hr q hq hagree

/-! ### A word under the masks of the map -/

section
variable {w v : Word}

theorem topNibble_of_mask_top (h : w &&& 0xF000 = v) : topNibble w = topNibble v := by
  rw [← h, ← formatA_fields w, formatA_mask, topNibble_formatA, topNibble_formatA]

theorem fields_of_mask_fn (h : w &&& 0xF00F = v) : topNibble w = topNibble v ∧ fieldFn w = fieldFn v := by
  rw [← h, ← formatR_fields w, formatR_mask]
  simp

theorem fields_of_mask_nn (h : w &&& 0xF0FF = v) : topNibble w = topNibble v ∧ fieldNN w = fieldNN v := by
  rw [← h, ← formatI_fields w, formatI_mask]
  simp

end

/-! ### The level at which each family is decoded -/

theorem decodeWord_family5 (h : topNibble w = 0x5) :
    decodeWord w = if fieldFn w = 0 then some (.seVxVy (fieldX w) (fieldY w)) else none := by
  simp [decodeWord, h]

theorem decodeWord_family8 (h : topNibble w = 0x8) : decodeWord w = decodeFamily8 w := by simp [decodeWord, h]

theorem decodeWord_family9 (h : topNibble w = 0x9) :
    decodeWord w = if fieldFn w = 0 then some (.sneVxVy (fieldX w) (fieldY w)) else none := by
  simp [decodeWord, h]

theorem decodeWord_familyE (h : topNibble w = 0xE) : decodeWord w = decodeFamilyE w := by simp [decodeWord, h]

theorem decodeWord_familyF (h : topNibble w = 0xF) : decodeWord w = decodeFamilyF w := by simp [decodeWord, h]

/-- In families 1 to 4, 6, 7 and A to D the top digit alone decides that a word decodes. -/
theorem isSome_decodeWord_of_topNibble
    (h : topNibble w ∈ [0x1, 0x2, 0x3, 0x4, 0x6, 0x7, 0xA, 0xB, 0xC, 0xD]) : (decodeWord w).isSome = true := by
  simp only [List.mem_cons, List.not_mem_nil, or_false] at h
  obtain h | h | h | h | h | h | h | h | h | h := h <;> simp [decodeWord, h]

/-- In families 5, 8 and 9 the low digit decides. -/
theorem isSome_decodeWord_congr_fn (h : topNibble v ∈ [0x5, 0x8, 0x9]) (htop : topNibble w = topNibble v)
    (hfn : fieldFn w = fieldFn v) : (decodeWord w).isSome = (decodeWord v).isSome := by
  simp only [List.mem_cons, List.not_mem_nil, or_false] at h
  obtain h | h | h := h
  · rw [decodeWord_family5 h, decodeWord_family5 (htop.trans h), hfn]
    split <;> rfl
  · rw [decodeWord_family8 h, decodeWord_family8 (htop.trans h), decodeFamily8, decodeFamily8, hfn]
    split <;> rfl
  · rw [decodeWord_family9 h, decodeWord_family9 (htop.trans h), hfn]
    split <;> rfl

/-- In families E and F the low byte decides. -/
theorem isSome_decodeWord_congr_nn (h : topNibble v ∈ [0xE, 0xF]) (htop : topNibble w = topNibble v)
    (hnn : fieldNN w = fieldNN v) : (decodeWord w).isSome = (decodeWord v).isSome := by
  simp only [List.mem_cons, List.not_mem_nil, or_false] at h
  obtain h | h := h
  · rw [decodeWord_familyE h, decodeWord_familyE (htop.trans h), decodeFamilyE, decodeFamilyE, hnn]
    split <;> rfl
  · rw [decodeWord_familyF h, decodeWord_familyF (htop.trans h), decodeFamilyF, decodeFamilyF, hnn]
    split <;> rfl

/-- The value of every row decodes, and the row's mask keeps the digits by which its family is decoded (R62). -/
def decodesUnderMask (r : OpcodeRow) : Prop :=
  (decodeWord r.value).isSome = true ∧
    (r.mask = 0xFFFF ∨ r.mask = 0xF000 ∧ topNibble r.value ∈ [0x1, 0x2, 0x3, 0x4, 0x6, 0x7, 0xA, 0xB, 0xC, 0xD] ∨
      r.mask = 0xF00F ∧ topNibble r.value ∈ [0x5, 0x8, 0x9] ∨ r.mask = 0xF0FF ∧ topNibble r.value ∈ [0xE, 0xF])

theorem decodesUnderMask_of_mem : ∀ r ∈ opcodeMap, decodesUnderMask r := by
  unfold decodesUnderMask; decide

theorem isSome_decodeWord_of_matchesWord {r : OpcodeRow} (hr : r ∈ opcodeMap) (hrw : r.matchesWord w = true) :
    (decodeWord w).isSome = true := by
  have hw : w &&& r.mask = r.value := beq_iff_eq.1 hrw
  obtain ⟨hvalue, hmask | ⟨hmask, htop⟩ | ⟨hmask, htop⟩ | ⟨hmask, htop⟩⟩ := decodesUnderMask_of_mem r hr <;>
    rw [hmask] at hw
  · obtain rfl : w = r.value := (BitVec.and_allOnes (x := w)).symm.trans hw
    exact hvalue
  · exact isSome_decodeWord_of_topNibble (topNibble_of_mask_top hw ▸ htop)
  · obtain ⟨hfamily, hfn⟩ := fields_of_mask_fn hw
    exact (isSome_decodeWord_congr_fn htop hfamily hfn).trans hvalue
  · obtain ⟨hfamily, hnn⟩ := fields_of_mask_nn hw
    exact (isSome_decodeWord_congr_nn htop hfamily hnn).trans hvalue

end

theorem decodeWord_eq_none_iff {w : Word} : decodeWord w = none ↔ ∀ r ∈ opcodeMap, r.matchesWord w = false := by
  constructor
  · intro hnone r hr
    by_contra hrw
    simpa [hnone] using isSome_decodeWord_of_matchesWord hr (Bool.eq_true_of_not_eq_false hrw)
  · intro hall
    by_contra hsome
    obtain ⟨i, hd⟩ := Option.ne_none_iff_exists'.1 hsome
    simpa [hall _ (row_mem_opcodeMap i)] using row_matchesWord_of_decodeWord hd

/-- Settles O3: a decoded word is the encoding of its instruction, which has its row's digits; every row's digits
decode; no two rows agree on the digits both fix. -/
theorem decoderFollowsTheOpcodeMap : Obligations.DecoderFollowsTheOpcodeMap :=
  ⟨rfl, fun _ i hd => ⟨row_mem_opcodeMap i, row_matchesWord_of_decodeWord hd⟩, fun _ => decodeWord_eq_none_iff,
    fun _ _ hr _ hq => row_unique hr hq⟩

/-! ### The unmatched words, in digits -/

section
variable (w : Word)

theorem toNat_topNibble : (topNibble w).toNat = w.toNat / 4096 := by
  have hw : w.toNat < 65536 := w.isLt
  simp only [topNibble, BitVec.extractLsb'_toNat, Nat.shiftRight_eq_div_pow]
  omega

theorem toNat_fieldFn : (fieldFn w).toNat = w.toNat % 16 := by simp [fieldFn]

theorem toNat_fieldNN : (fieldNN w).toNat = w.toNat % 256 := by simp [fieldNN]

theorem decodeFamily0_eq_none_iff : decodeFamily0 w = none ↔ w.toNat ≠ 0x00E0 ∧ w.toNat ≠ 0x00EE := by
  have hE0 : w = 0x00E0 ↔ w.toNat = 0x00E0 := BitVec.toNat_eq
  have hEE : w = 0x00EE ↔ w.toNat = 0x00EE := BitVec.toNat_eq
  unfold decodeFamily0
  split
  · simp_all
  · split <;> simp_all

/-- A digit that is none of the nine function codes of family 8 is one of the other seven. -/
theorem decodeFamily8_eq_none_iff :
    decodeFamily8 w = none ↔ w.toNat % 16 ∈ [0x8, 0x9, 0xA, 0xB, 0xC, 0xD, 0xF] := by
  have hcodes : ∀ fn : BitVec 4, fn.toNat ∈ [0x8, 0x9, 0xA, 0xB, 0xC, 0xD, 0xF] ↔
      fn ∉ [0x0, 0x1, 0x2, 0x3, 0x4, 0x5, 0x6, 0x7, 0xE] := by decide
  rw [← toNat_fieldFn, hcodes, decodeFamily8]
  split <;> simp_all

theorem decodeFamilyE_eq_none_iff : decodeFamilyE w = none ↔ w.toNat % 256 ∉ [0x9E, 0xA1] := by
  rw [← toNat_fieldNN, decodeFamilyE]
  split <;> simp_all [BitVec.toNat_eq]

theorem decodeFamilyF_eq_none_iff :
    decodeFamilyF w = none ↔ w.toNat % 256 ∉ [0x07, 0x0A, 0x15, 0x18, 0x1E, 0x29, 0x33, 0x55, 0x65] := by
  rw [← toNat_fieldNN, decodeFamilyF]
  split <;> simp_all [BitVec.toNat_eq]

theorem fieldFn_eq_zero_iff : fieldFn w = 0 ↔ w.toNat % 16 = 0 := by
  rw [← toNat_fieldFn, BitVec.toNat_eq]; rfl

theorem div_of_topNibble {k : BitVec 4} (h : topNibble w = k) : w.toNat / 4096 = k.toNat := by
  rw [← toNat_topNibble, h]

end

/-- Settles O4: the top digit fixes the family, and in each family the words left over are those whose function code is
not one of its own. -/
theorem unmatchedWordsAreTheSixGroups : Obligations.UnmatchedWordsAreTheSixGroups := by
  intro w
  rw [decodeWord]
  split
  case h_1 htop => simp [div_of_topNibble w htop, decodeFamily0_eq_none_iff]
  case h_6 htop | h_10 htop => simp [div_of_topNibble w htop, ← fieldFn_eq_zero_iff]
  case h_9 htop => simp [div_of_topNibble w htop, decodeFamily8_eq_none_iff]
  case h_15 htop => simp [div_of_topNibble w htop, decodeFamilyE_eq_none_iff]
  case h_16 htop => simp [div_of_topNibble w htop, decodeFamilyF_eq_none_iff]
  case h_2 htop | h_3 htop | h_4 htop | h_5 htop | h_7 htop | h_8 htop | h_11 htop | h_12 htop | h_13 htop |
      h_14 htop => simp [div_of_topNibble w htop]
  case h_17 =>
    have hdigit : ∀ k : BitVec 4,
        k ∈ [0x0, 0x1, 0x2, 0x3, 0x4, 0x5, 0x6, 0x7, 0x8, 0x9, 0xA, 0xB, 0xC, 0xD, 0xE, 0xF] := by decide
    have htop := hdigit (topNibble w)
    simp_all

/-! ### Words written out, and words as bytes -/

/-- Settles O5: the ten words, decoded. -/
theorem sampleWordsDecode : Obligations.SampleWordsDecode := by
  unfold Obligations.SampleWordsDecode; decide

/-- The high byte first, then the low byte (R44). -/
theorem wordOfBytes_of_toNat {w : Word} {hi lo : Byte} (hhi : hi.toNat = w.toNat / 256)
    (hlo : lo.toNat = w.toNat % 256) : wordOfBytes hi lo = w := by
  have hw : w.toNat < 65536 := w.isLt
  obtain rfl : w.extractLsb' 8 8 = hi := BitVec.eq_of_toNat_eq (by
    rw [BitVec.extractLsb'_toNat, Nat.shiftRight_eq_div_pow]; omega)
  obtain rfl : w.extractLsb' 0 8 = lo := BitVec.eq_of_toNat_eq (by
    rw [BitVec.extractLsb'_toNat, Nat.shiftRight_eq_div_pow]; omega)
  exact wordOfBytes_split w

theorem decode_of_wordOfBytes {i : Instr} {hi lo : Byte} (rest : List Byte) (hwf : i.wf = true)
    (hw : wordOfBytes hi lo = encode i) : decode (hi :: lo :: rest) = .ok (i, rest) := by
  simp [decode, hw, decodeWord_encode hwf]

theorem decodeTableWord_encode {i : Instr} (hwf : i.wf = true) : decodeTableWord 16 (encode i).toNat = some i := by
  have hw : (encode i).toNat < 65536 := (encode i).isLt
  have hbytes : wordOfBytes (BitVec.ofNat 8 ((encode i).toNat % 2 ^ 16 / 256))
      (BitVec.ofNat 8 ((encode i).toNat % 2 ^ 16)) = encode i :=
    wordOfBytes_of_toNat (by rw [BitVec.toNat_ofNat]; omega) (by rw [BitVec.toNat_ofNat]; omega)
  rw [decodeTableWord, decode_of_wordOfBytes [] hwf hbytes]

/-- Settles O6: the two bytes make up the word, on a byte list and in a table word alike. -/
theorem twoBytesHighByteFirst : Obligations.TwoBytesHighByteFirst := fun _ _ _ rest hwf hhi hlo =>
  ⟨decode_of_wordOfBytes rest hwf (wordOfBytes_of_toNat hhi hlo), decodeTableWord_encode hwf⟩

end Sys2Proof.Proofs
end

section
/-! Proofs about the step cycle (40): everything a step can answer, said once, and from it the fetch, the result of a
step, and the errors. -/

namespace Sys2Proof.Proofs

open Sys2Proof.Machine Sys2Proof.Laws

/-! ### Which answers report a changed display -/

theorem complete_inj {d d' : Bool} {t t' : State} (h : complete d t = complete d' t') : d = d' := by
  have hresult := congrArg State.result (Host.Outcome.next.inj h)
  simpa using hresult

theorem raise_ne_complete {e : FatalError} {d : Bool} {s t : State} : raise e s ≠ complete d t := by
  intro h
  have hresult := congrArg State.result (Host.Outcome.next.inj h)
  simp at hresult

/-- An answer that is a completion with d, or an error, is no completion with another flag. -/
theorem displayChanged_of_cases {o : Answer} {d d' : Bool} {t' : State}
    (h : (∃ t, o = complete d t) ∨ ∃ e s, o = raise e s) (he : o = complete d' t') : d' = d := by
  obtain ⟨t, ht⟩ | ⟨e, s, hs⟩ := h
  · exact complete_inj (he.symm.trans ht)
  · exact absurd (hs.symm.trans he) raise_ne_complete

/-- `display_changed` is true of the two display instructions, when they complete, and of no other (R85). -/
theorem displayChanged_of_exec {i : Instr} {s t : State} {d : Bool} (he : exec i s = complete d t) :
    d = true ↔ isDisplay i := by
  cases i with
  | cls => simp [isDisplay, ← complete_inj he]
  | drwVxVyN x y n =>
    simp [isDisplay, displayChanged_of_cases
      ((execDrwVxVyN_cases x y n s).imp (fun h => ⟨_, h.2⟩) fun h => ⟨_, _, h.2⟩) he]
  | callNnn nnn =>
    simp [isDisplay, displayChanged_of_cases
      ((execCallNnn_cases nnn s).imp (fun ⟨_, h⟩ => ⟨_, h⟩) fun h => ⟨_, _, h.2⟩) he]
  | ret =>
    simp [isDisplay, displayChanged_of_cases
      ((execRet_cases s).imp (fun ⟨_, h⟩ => ⟨_, h⟩) fun h => ⟨_, _, h.2⟩) he]
  | ldBVx x =>
    simp [isDisplay, displayChanged_of_cases
      ((execLdBVx_cases x s).imp (fun h => ⟨_, h.2⟩) fun h => ⟨_, _, h.2⟩) he]
  | ldMiVx x =>
    simp [isDisplay, displayChanged_of_cases
      ((execLdMiVx_cases x s).imp (fun h => ⟨_, h.2⟩) fun h => ⟨_, _, h.2⟩) he]
  | ldVxMi x =>
    simp [isDisplay, displayChanged_of_cases
      ((execLdVxMi_cases x s).imp (fun h => ⟨_, h.2⟩) fun h => ⟨_, _, h.2⟩) he]
  | _ => simp [isDisplay, ← complete_inj he]

/-! ### The key-wait poll -/

theorem pollKey_of_some {s : State} {x k : Reg} (h : s.lowestKey = some k) :
    pollKey x s = complete false (((s.writeV x (byteOfReg k)).advance).setRun .running) := by
  simp [pollKey, h]

theorem pollKey_of_none {s : State} {x : Reg} (h : s.lowestKey = none) : pollKey x s = complete false s := by
  simp [pollKey, h]

/-- Everything a poll answers: it completes, either back in Running or with the state as it was. -/
theorem pollKey_cases (x : Reg) (s : State) :
    (∃ k, s.lowestKey = some k ∧
        pollKey x s = complete false (((s.writeV x (byteOfReg k)).advance).setRun .running)) ∨
      (s.lowestKey = none ∧ pollKey x s = complete false s) := by
  cases h : s.lowestKey with
  | some k => exact .inl ⟨k, rfl, pollKey_of_some h⟩
  | none => exact .inr ⟨rfl, pollKey_of_none h⟩

/-! ### Everything a step can answer -/

/-- The five ways a step goes, by RUN, the fetch and the decoder (R80 to R82, R86, R171). -/
inductive StepTo (s t : State) : Prop where
  | halted (e : FatalError) (hrun : s.run = .halted e) (ht : t = s.report ⟨.fatal e, false⟩)
  | polled (x : Reg) (hrun : s.run = .waitingForKey x) (ht : pollKey x s = .next t)
  | fetchRaised (hrun : s.run = .running) (hpc : 4095 ≤ s.pc.toNat) (ht : t = haltedWith .memoryBoundsError s)
  | unmatched (hrun : s.run = .running) (hpc : s.pc.toNat < 4095) (hd : decodeWord (wordAt s s.pc.toNat) = none)
      (ht : t = s.advance.report ⟨.opcodeError, false⟩)
  | executed (i : Instr) (hrun : s.run = .running) (hpc : s.pc.toNat < 4095)
      (hd : decodeWord (wordAt s s.pc.toNat) = some i) (ht : exec i s = .next t)

theorem stepTo_of_step {s t : State} (hstep : step s = .next t) : StepTo s t := by
  cases hrun : s.run with
  | halted e => exact .halted e hrun (Host.Outcome.next.inj (hstep.symm.trans (step_halted hrun)))
  | waitingForKey x => exact .polled x hrun ((step_waiting hrun).symm.trans hstep)
  | running =>
    rw [step_running hrun] at hstep
    obtain ⟨hpc, he⟩ | ⟨op, i, hf, hd, he⟩ | ⟨op, hf, hd, he⟩ := runningStep_cases s
    · exact .fetchRaised hrun hpc (Host.Outcome.next.inj (hstep.symm.trans he))
    · obtain ⟨hpc, rfl⟩ := fetchWord_eq_some.1 hf
      rw [← wordAt_eq_append] at hd
      exact .executed i hrun (Nat.lt_succ_of_le hpc) hd (he.symm.trans hstep)
    · obtain ⟨hpc, rfl⟩ := fetchWord_eq_some.1 hf
      rw [← wordAt_eq_append] at hd
      exact .unmatched hrun (Nat.lt_succ_of_le hpc) hd (Host.Outcome.next.inj (hstep.symm.trans he))

theorem exists_exec (i : Instr) (s : State) : ∃ t, exec i s = .next t := by
  obtain ⟨_, d, t, he, _⟩ | ⟨e, _, hraises⟩ := exec_completion_or_error i s
  · exact ⟨_, he⟩
  · exact ⟨_, hraises⟩

theorem exists_step (s : State) : ∃ t, step s = .next t := by
  cases hrun : s.run with
  | halted e => exact ⟨_, step_halted hrun⟩
  | waitingForKey x =>
    rw [step_waiting hrun]
    obtain ⟨k, _, hpoll⟩ | ⟨_, hpoll⟩ := pollKey_cases x s
    · exact ⟨_, hpoll⟩
    · exact ⟨_, hpoll⟩
  | running =>
    rw [step_running hrun]
    obtain ⟨_, he⟩ | ⟨op, i, _, _, he⟩ | ⟨op, _, _, he⟩ := runningStep_cases s
    · exact ⟨_, he⟩
    · exact he ▸ exists_exec i s
    · exact ⟨_, he⟩

/-! ### The fetch -/

theorem instructionAt_eq_decodeWord_wordAt {s : State} (hpc : s.pc.toNat < 4095) :
    instructionAt s = decodeWord (wordAt s s.pc.toNat) :=
  instructionAt_eq_decodeWord (fetchWord_eq_wordAt hpc)

/-- Settles O7: the fetch is in bounds and its word decodes, so the running arm is `exec` of its instruction. -/
theorem stepRunsTheDecodedInstruction : Obligations.StepRunsTheDecodedInstruction := by
  intro s i hrun hpc hd
  have hfetch : fetchWord s = some (wordAt s s.pc.toNat) := fetchWord_eq_wordAt (by omega)
  rw [step_running hrun]
  simp [runningStep, hfetch, hd]

/-- Settles O8: a fetch that fails raises in the running arm; one that does not reads the two bytes at PC. -/
theorem fetchIsBoundsCheckedAndBigEndian : Obligations.FetchIsBoundsCheckedAndBigEndian := by
  refine fun s hrun => ⟨fun hpc => ?_, fetchWord_eq_wordAt⟩
  have hfetch : fetchWord s = none := fetchWord_eq_none.2 hpc
  rw [step_running hrun]
  simp [runningStep, hfetch, raise_eq, haltedWith]

/-! ### The result of a step -/

/-- The answers of an instruction run from RUN = Running, with the result each reports: a completion, which does not
halt, or the one error of the instruction (R84, R85, R172). -/
theorem exec_result_cases {i : Instr} {s t : State} (hrun : s.run = .running) (he : exec i s = .next t) :
    ((∀ e, t.run ≠ .halted e) ∧ ∃ d, t.result = some ⟨.ok, d⟩ ∧ (d = true ↔ isDisplay i)) ∨
      ∃ e, t = haltedWith e s := by
  obtain ⟨_, d, u, hu, hends⟩ | ⟨e, _, hraises⟩ := exec_completion_or_error i s
  · obtain rfl : u.report ⟨.ok, d⟩ = t := Host.Outcome.next.inj (hu.symm.trans he)
    refine .inl ⟨fun e => ?_, d, rfl, displayChanged_of_exec hu⟩
    obtain hkept | ⟨x, hwait⟩ := hends
    · simp [hkept, hrun]
    · simp [hwait]
  · exact .inr ⟨e, Host.Outcome.next.inj (he.symm.trans hraises)⟩

theorem result_of_pollKey {x : Reg} {s t : State} (hrun : s.run = .waitingForKey x) (hpoll : pollKey x s = .next t) :
    (∀ e, t.run ≠ .halted e) ∧ t.result = some ⟨.ok, false⟩ := by
  obtain ⟨k, _, hk⟩ | ⟨_, hk⟩ := pollKey_cases x s
  · obtain rfl := Host.Outcome.next.inj (hk.symm.trans hpoll)
    simp
  · obtain rfl := Host.Outcome.next.inj (hk.symm.trans hpoll)
    simp [hrun]

@[simp] theorem haltedWith_run (e : FatalError) (s : State) : (haltedWith e s).run = .halted e := rfl
@[simp] theorem haltedWith_result (e : FatalError) (s : State) :
    (haltedWith e s).result = some ⟨.fatal e, false⟩ := rfl

section
variable {s t : State}

theorem halted_iff_fatal (hstep : step s = .next t) (e : FatalError) :
    t.run = .halted e ↔ ∃ d, t.result = some ⟨.fatal e, d⟩ := by
  cases stepTo_of_step hstep with
  | halted e' hrun ht => simp [ht, hrun]
  | polled x hrun ht =>
    obtain ⟨hnot, hresult⟩ := result_of_pollKey hrun ht
    simp [hnot, hresult]
  | fetchRaised hrun hpc ht => simp [ht]
  | unmatched hrun hpc hd ht => simp [ht, hrun]
  | executed i hrun hpc hd ht =>
    obtain ⟨hnot, d, hresult, _⟩ | ⟨e', rfl⟩ := exec_result_cases hrun ht
    · simp [hnot, hresult]
    · simp

theorem opcodeError_iff (hstep : step s = .next t) : (∃ d, t.result = some ⟨.opcodeError, d⟩) ↔
    s.run = .running ∧ s.pc.toNat < 4095 ∧ decodeWord (wordAt s s.pc.toNat) = none := by
  cases stepTo_of_step hstep with
  | halted e hrun ht => simp [ht, hrun]
  | polled x hrun ht => simp [hrun, result_of_pollKey hrun ht]
  | fetchRaised hrun hpc ht => simp [ht, hpc.not_gt]
  | unmatched hrun hpc hd ht => simp [ht, hrun, hpc, hd]
  | executed i hrun hpc hd ht =>
    obtain ⟨_, d, hresult, _⟩ | ⟨e, rfl⟩ := exec_result_cases hrun ht
    · simp [hd, hresult]
    · simp [hd]

theorem displayChanged_iff (hstep : step s = .next t) : (∃ st, t.result = some ⟨st, true⟩) ↔
    s.run = .running ∧ t.notHalted ∧ ∃ i, instructionAt s = some i ∧ isDisplay i := by
  cases stepTo_of_step hstep with
  | halted e hrun ht => simp [ht, hrun]
  | polled x hrun ht => simp [hrun, result_of_pollKey hrun ht]
  | fetchRaised hrun hpc ht => simp [ht, State.notHalted]
  | unmatched hrun hpc hd ht => simp [ht, instructionAt_eq_decodeWord_wordAt hpc, hd]
  | executed i hrun hpc hd ht =>
    obtain ⟨hnot, d, hresult, hdisplay⟩ | ⟨e, rfl⟩ := exec_result_cases hrun ht
    · simp [instructionAt_eq_decodeWord_wordAt hpc, hd, hresult, hrun, State.notHalted, hnot, hdisplay]
    · simp [State.notHalted]

theorem result_of_step (hstep : step s = .next t) : ∃ r, t.result = some r := by
  cases stepTo_of_step hstep with
  | halted e hrun ht => exact ⟨_, congrArg State.result ht⟩
  | polled x hrun ht => exact ⟨_, (result_of_pollKey hrun ht).2⟩
  | fetchRaised hrun hpc ht => exact ⟨_, congrArg State.result ht⟩
  | unmatched hrun hpc hd ht => exact ⟨_, congrArg State.result ht⟩
  | executed i hrun hpc hd ht =>
    obtain ⟨_, d, hresult, _⟩ | ⟨e, rfl⟩ := exec_result_cases hrun ht
    · exact ⟨_, hresult⟩
    · exact ⟨_, rfl⟩

end

/-- Settles O13: each column of the table by the five ways a step goes. -/
theorem stepResultByCase : Obligations.StepResultByCase := fun _ _ hstep =>
  ⟨halted_iff_fatal hstep, opcodeError_iff hstep, displayChanged_iff hstep⟩

/-- Settles O12: every step answers a next state, and each of the five ways reports a result. -/
theorem everyStepReturnsAResult : Obligations.EveryStepReturnsAResult := by
  intro s
  obtain ⟨t, hstep⟩ := exists_step s
  obtain ⟨r, hresult⟩ := result_of_step hstep
  exact ⟨t, r, hstep, hresult⟩

/-! ### Errors -/

/-- Settles O15: of the causes of Halted(e), those whose error is MemoryBoundsError. -/
theorem memoryBoundsErrorHasExactlyFiveCauses : Obligations.MemoryBoundsErrorHasExactlyFiveCauses := by
  intro s t hrun hstep
  simp [step_halted_iff hrun hstep]

/-- Settles O16: only a raise, at the fetch or in the instruction, halts a running core. -/
theorem fatalErrorsArePrecise : Obligations.FatalErrorsArePrecise := by
  intro s t e hrun hstep hhalted
  cases stepTo_of_step hstep with
  | halted e' hrun' ht => simp [hrun] at hrun'
  | polled x hrun' ht => simp [hrun] at hrun'
  | fetchRaised _ hpc ht =>
    subst ht
    cases hhalted
    rfl
  | unmatched _ hpc hd ht => simp [ht, hrun] at hhalted
  | executed i _ hpc hd ht =>
    obtain ⟨hnot, _⟩ | ⟨e', rfl⟩ := exec_result_cases hrun ht
    · exact absurd hhalted (hnot e)
    · cases hhalted
      rfl

end Sys2Proof.Proofs
end

section
/-! Proofs about runs of the core that change no state element (40 section 3, 46 section 3), and about the recorded
result, which no step reads (R84). -/

namespace Sys2Proof.Proofs

open Sys2Proof.Machine Sys2Proof.Laws

/-! ### Runs in which only the result changes -/

theorem core_run_succ {n : Nat} {s t : State} (h : step s = .next t) :
    Host.Core.run core (n + 1) s = Host.Core.run core n t := by
  simp [Host.Core.run, core, h]

/-- A core whose steps all report r and change nothing else has, after one step or more, changed nothing else. -/
theorem core_run_of_report {s : State} {r : StepResult}
    (h : ∀ r', step { s with result := r' } = .next (s.report r)) (n : Nat) :
    Host.Core.run core (n + 1) s = .next (s.report r) := by
  rw [core_run_succ (h s.result)]
  induction n with
  | zero => rfl
  | succ n ih => exact (core_run_succ (h (some r))).trans ih

/-- Settles O10: a step in Halted(e) is a report of Fatal(e), whatever was reported before. -/
theorem haltedStepsRepeatTheError : Obligations.HaltedStepsRepeatTheError :=
  fun n s _ hrun => core_run_of_report (fun r => step_halted (s := { s with result := r }) hrun) n

/-- Settles O49: with no key pressed a poll is a report of Ok, whatever was reported before. -/
theorem keyWaitHoldsWhileNoKeyIsPressed : Obligations.KeyWaitHoldsWhileNoKeyIsPressed := by
  intro n s x hrun hkeys
  have hnone (r) : State.lowestKey { s with result := r } = none := lowestKey_eq_none.2 hkeys
  exact core_run_of_report
    (fun r => (step_waiting (s := { s with result := r }) hrun).trans (pollKey_of_none (hnone r))) n

/-! ### The recorded result is not read -/

/-- An instruction reads no result and overwrites it, also where it hands a changed state on: the four that push, pop or
store. -/
theorem exec_with_result (i : Instr) (s : State) (r : Option StepResult) :
    exec i { s with result := r } = exec i s := by
  cases i with
  | callNnn nnn =>
    obtain h | h := Nat.lt_or_eq_of_le (Nat.le_of_lt_succ s.sp.isLt)
    · exact (exec_callNnn nnn (s := { s with result := r }) h).trans (exec_callNnn nnn h).symm
    · exact (raises_callNnn nnn (s := { s with result := r }) h).trans (raises_callNnn nnn h).symm
  | ret =>
    obtain h | h := Nat.eq_zero_or_pos s.sp.val
    · exact (raises_ret (s := { s with result := r }) h).trans (raises_ret h).symm
    · exact (exec_ret (s := { s with result := r }) h).trans (exec_ret h).symm
  | ldBVx x =>
    obtain h | h := le_or_gt (s.i.toNat + 2) 4095
    · exact (exec_ldBVx (s := { s with result := r }) h).trans (exec_ldBVx h).symm
    · exact (raises_ldBVx (s := { s with result := r }) h).trans (raises_ldBVx h).symm
  | ldMiVx x =>
    obtain h | h := le_or_gt (s.i.toNat + x.val) 4095
    · exact (exec_ldMiVx (s := { s with result := r }) h).trans (exec_ldMiVx h).symm
    · exact (raises_ldMiVx (s := { s with result := r }) h).trans (raises_ldMiVx h).symm
  | _ => rfl

theorem pollKey_with_result (x : Reg) (s : State) (r : Option StepResult) :
    pollKey x { s with result := r } = pollKey x s := by
  obtain ⟨k, hk, hpoll⟩ | ⟨hnone, hpoll⟩ := pollKey_cases x s
  · exact (pollKey_of_some (s := { s with result := r }) hk).trans hpoll.symm
  · exact (pollKey_of_none (s := { s with result := r }) hnone).trans hpoll.symm

theorem runningStep_with_result (s : State) (r : Option StepResult) :
    runningStep { s with result := r } = runningStep s := by
  have hfetch : fetchWord { s with result := r } = fetchWord s := rfl
  unfold runningStep
  rw [hfetch]
  cases fetchWord s with
  | none => rfl
  | some op =>
    cases hd : decodeWord op with
    | none => simp only [hd]; rfl
    | some i => simp only [hd]; exact exec_with_result i s r

theorem run_cases (s : State) :
    (∃ e, s.run = .halted e) ∨ (∃ x, s.run = .waitingForKey x) ∨ s.run = .running := by
  cases s.run <;> simp

/-- Settles O11: none of the three arms reads the recorded result, and each overwrites it. -/
theorem stepDoesNotReadTheLastResult : Obligations.StepDoesNotReadTheLastResult := by
  intro s r
  obtain ⟨e, hrun⟩ | ⟨x, hrun⟩ | hrun := run_cases s
  · exact (step_halted (s := { s with result := r }) hrun).trans (step_halted hrun).symm
  · rw [step_waiting hrun, step_waiting (s := { s with result := r }) hrun, pollKey_with_result]
  · rw [step_running hrun, step_running (s := { s with result := r }) hrun, runningStep_with_result]

end Sys2Proof.Proofs
end

section
/-! Proofs about the host's operations (60 sections 5 and 6, 70 section 2): what each one answers, said once, and what
it does to the state. -/

namespace Sys2Proof.Proofs

open Sys2Proof.Machine Sys2Proof.Laws

/-! ### Timers, keys and reads -/

/-- One less, floored at 0 (R184). -/
theorem toNat_decrement (b : Byte) : (if b = 0 then 0 else b - 1).toNat = b.toNat - 1 := by
  split
  · next h => simp [h]
  · next h => bv_omega

/-- Settles O45: the operation is `tickTimers`, which writes the two timers. -/
theorem tickDecrementsBothTimersToZero : Obligations.TickDecrementsBothTimersToZero := fun z =>
  ⟨tickTimers z.state, rfl, toNat_decrement z.state.dt, toNat_decrement z.state.st, rfl⟩

theorem key_setKey (k j : Reg) (b : Bool) (s : State) : (setKey k b s).key[j] = if k = j then b else s.key[j] := by
  simp [setKey, Vector.getElem_set, Fin.ext_iff]

theorem samePart_setKey {s : State} {p : Part} (k : Reg) (b : Bool) (hp : p ≠ .key k) :
    samePart s (setKey k b s) p := by
  cases p with
  | key j => exact (key_setKey k j b s).trans (if_neg fun h => hp (congrArg Part.key h.symm))
  | _ => rfl

/-- Settles O50: the operation is a write of the one key. -/
theorem setKeyWritesOneKey : Obligations.SetKeyWritesOneKey := fun k b z =>
  ⟨setKey k b z.state, rfl, (key_setKey k k b z.state).trans (if_pos rfl), fun _ hp => samePart_setKey k b hp, rfl⟩

theorem getElem_framebuffer (s : State) (x : Fin 64) (y : Fin 32) (h : 64 * y.val + x.val < 2048) :
    (framebuffer s)[64 * y.val + x.val] = s.pix.cell x y := by
  have hcolumn : (64 * y.val + x.val) % 64 = x.val := by omega
  have hrow : (64 * y.val + x.val) / 64 = y.val := by omega
  simp [framebuffer, hcolumn, hrow]

/-- Settles O54: both reads answer with the session they were given. -/
theorem hostReadsChangeNothing : Obligations.HostReadsChangeNothing := fun z =>
  ⟨⟨framebuffer z.state, rfl, getElem_framebuffer z.state⟩, isSoundActive z.state, rfl, decide_eq_true_iff⟩

/-! ### Loading a program -/

/-- The state with a program copied to 0x200 on (R201). -/
def programmed (s : State) (bytes : List Byte) : State :=
  { s with mem := Memory.writeBytes s.config.font s.mem 0x200 bytes }

theorem loadAccepts_iff (bytes : List Byte) : loadAccepts bytes = true ↔ 0 < bytes.length ∧ bytes.length ≤ 3584 := by
  simp [loadAccepts]

section
variable {bytes : List Byte} {z z' : Session} {r : Reply}

theorem operate_load_accepted (hphase : z.phase = .initialized) (h : loadAccepts bytes = true) :
    Session.operate (.loadProgram bytes) z = .next (⟨programmed z.state bytes, .loaded⟩, .loaded) := by
  simp [Session.operate, Session.load, hphase, loadProgram, h, programmed]

theorem operate_load_rejected (hphase : z.phase = .initialized) (h : loadAccepts bytes = false) :
    Session.operate (.loadProgram bytes) z = .next (z, .loadError) := by
  simp [Session.operate, Session.load, hphase, loadProgram, h]

theorem operate_load_outOfOrder (hphase : z.phase ≠ .initialized) :
    Session.operate (.loadProgram bytes) z = .refused .loadOutOfOrder := by
  cases h : z.phase with
  | initialized => exact absurd h hphase
  | _ => simp [Session.operate, Session.load, h]

/-- Everything a load that answers does (R201, R202). -/
theorem operate_load_cases (h : Session.operate (.loadProgram bytes) z = .next (z', r)) :
    z.phase = .initialized ∧
      ((loadAccepts bytes = true ∧ z' = ⟨programmed z.state bytes, .loaded⟩ ∧ r = .loaded) ∨
        (loadAccepts bytes = false ∧ z' = z ∧ r = .loadError)) := by
  by_cases hphase : z.phase = .initialized
  · refine ⟨hphase, ?_⟩
    cases hacc : loadAccepts bytes with
    | true =>
      cases (operate_load_accepted hphase hacc).symm.trans h
      exact .inl ⟨rfl, rfl, rfl⟩
    | false =>
      cases (operate_load_rejected hphase hacc).symm.trans h
      exact .inr ⟨rfl, rfl, rfl⟩
  · cases (operate_load_outOfOrder hphase).symm.trans h

/-- Everything a `step` operation does (R84). -/
theorem operate_step_cases (h : Session.operate .step z = .next (z', r)) :
    step z.state = .next z'.state ∧ z'.phase = .stepped := by
  obtain ⟨t, hstep⟩ := exists_step z.state
  have hanswer : Session.operate .step z = .next (⟨t, .stepped⟩, .stepped t.result) := by
    simp [Session.operate, Session.stepCore, hstep]
  cases hanswer.symm.trans h
  exact ⟨hstep, rfl⟩

end

/-- A load keeps every part but the cells of its program. -/
theorem samePart_programmed (s : State) (bytes : List Byte) {p : Part}
    (hp : ∀ a, p = .mem a → a < 0x200 ∨ 0x200 + bytes.length ≤ a) : samePart s (programmed s bytes) p := by
  cases p with
  | mem a => exact read_writeBytes_other s.mem bytes (hp a rfl)
  | _ => rfl

/-- Settles O51: an accepted load is the block write at 0x200, which reads back and keeps all else, the font below it
too; a rejected one leaves the session as it was. -/
theorem loadCopiesTheProgram : Obligations.LoadCopiesTheProgram := by
  refine ⟨fun bytes z hphase => ⟨fun hlen => ?rejected, fun hw hpos hle => ?accepted⟩, fun bytes cfg z h a ha => ?font⟩
  case rejected =>
    refine operate_load_rejected hphase (Bool.eq_false_iff.2 fun hacc => ?_)
    have hbounds := (loadAccepts_iff bytes).1 hacc
    omega
  case accepted =>
    have hroom : 0x200 + bytes.length ≤ memSize := by unfold memSize; omega
    exact ⟨programmed z.state bytes, operate_load_accepted hphase ((loadAccepts_iff bytes).2 ⟨hpos, hle⟩),
      fun j hj => read_writeBytes hw hroom hj, rfl, fun p hp => samePart_programmed z.state bytes hp⟩
  case font =>
    obtain ⟨_, ⟨_, rfl, _⟩ | ⟨_, _, hr⟩⟩ := operate_load_cases h
    · have hbelow : a < 0x200 ∨ 0x200 + bytes.length ≤ a := by omega
      exact (read_writeBytes_other [] bytes hbelow).trans (unlistedByte_of_lt cfg.font ha)
    · cases hr

/-- Settles O52: each clause is what the operation answers in that phase. -/
theorem loadOutOfOrderIsRefused : Obligations.LoadOutOfOrderIsRefused := by
  refine fun bytes z z' r =>
    ⟨fun hphase => ?refused, fun h => (operate_step_cases h).2, fun h => ?reset, fun h => ?load⟩
  case refused => exact operate_load_outOfOrder (by rintro h; simp [h] at hphase)
  case reset =>
    cases (operate_reset z).symm.trans h
    rfl
  case load =>
    obtain ⟨hphase, ⟨_, rfl, rfl⟩ | ⟨_, rfl, rfl⟩⟩ := operate_load_cases h
    · simp [hphase]
    · simp [hphase]

/-! ### What an operation does to the state -/

/-- The effect on the state of an operation that answers: one of the five that write, or none (R186). -/
inductive Effect (op : Operation) (s t : State) : Prop where
  | reset (hop : op = .reset) (ht : t = initializeState s)
  | load (bytes : List Byte) (hop : op = .loadProgram bytes) (hacc : loadAccepts bytes = true)
      (ht : t = programmed s bytes)
  | step (hop : op = .step) (ht : step s = .next t)
  | tick (hop : op = .tickTimers) (ht : t = tickTimers s)
  | key (k : Reg) (b : Bool) (hop : op = .setKey k b) (ht : t = setKey k b s)
  | none (ht : t = s)

theorem effect_of_operate {op : Operation} {z z' : Session} {r : Reply}
    (h : Session.operate op z = .next (z', r)) : Effect op z.state z'.state := by
  cases op with
  | reset =>
    cases (operate_reset z).symm.trans h
    exact .reset rfl rfl
  | loadProgram bytes =>
    obtain ⟨_, ⟨hacc, rfl, _⟩ | ⟨_, rfl, _⟩⟩ := operate_load_cases h
    · exact .load bytes rfl hacc rfl
    · exact .none rfl
  | step => exact .step rfl (operate_step_cases h).1
  | tickTimers => cases h; exact .tick rfl rfl
  | setKey k b => cases h; exact .key k b rfl rfl
  | framebuffer => cases h; exact .none rfl
  | isSoundActive => cases h; exact .none rfl

/-- Settles O17: of the five operations that write, only the reset writes RUN of a halted core. -/
theorem onlyInitializeLeavesHalted : Obligations.OnlyInitializeLeavesHalted := by
  intro op z z' r e hop hrun h
  cases effect_of_operate h with
  | reset hreset _ => exact absurd hreset hop
  | step _ ht =>
    rw [← Host.Outcome.next.inj ((step_halted hrun).symm.trans ht)]
    exact hrun
  | load _ _ _ ht | tick _ ht | key _ _ _ ht | none ht =>
    rw [ht]
    exact hrun

end Sys2Proof.Proofs
end

section
/-! Proofs about the invariant of reachable states (10 R28): what each state operation keeps of it, that every
instruction and every step keep it, and from that every operation and every schedule. -/

namespace Sys2Proof.Proofs

open Sys2Proof.Machine Sys2Proof.Laws

/-! ### A state in which an instruction has been fetched -/

/-- The invariant, with RUN = Running and PC where the fetch was in bounds: what an instruction starts from (R81). Each
operation of a meaning keeps it, up to the PC write that ends the instruction. -/
structure Fetched (s : State) : Prop where
  inv : s.Inv
  running : s.run = .running
  pc_le : s.pc.toNat ≤ 0xFFE

/-- The fields the invariant reads. -/
def invView (s : State) : (Memory × Config) × (Word × Word) × (Fin 17 × Vector Word 16) × RunState :=
  ((s.mem, s.config), (s.pc, s.i), (s.sp, s.stack), s.run)

theorem inv_congr {s t : State} (h : s.Inv) (hview : invView t = invView s) : t.Inv := by
  simp only [invView, Prod.mk.injEq] at hview
  obtain ⟨⟨hmem, hconfig⟩, ⟨hpc, hi⟩, ⟨hsp, hstack⟩, hrun⟩ := hview
  refine ⟨?_, ?_, ?_, ?_, ?_⟩
  · rw [hmem, hconfig]; exact h.memory
  · rw [hpc]; exact h.pcBound
  · rw [hi]; exact h.iBound
  · rw [hsp, hstack]; exact h.liveEntries
  · rw [hrun, hpc]; exact h.waitingPc

theorem inv_report {s : State} (r : StepResult) (h : s.Inv) : (s.report r).Inv := inv_congr h rfl

/-- A state that waits for no key keeps the invariant when RUN gets another value that is no wait either. -/
theorem inv_setRun {s : State} {r : RunState} (hr : ∀ x, r ≠ .waitingForKey x) (h : s.Inv) : (s.setRun r).Inv :=
  ⟨h.memory, h.pcBound, h.iBound, h.liveEntries, fun x hx => absurd hx (hr x)⟩

theorem inv_haltedWith {s : State} (e : FatalError) (h : s.Inv) : (haltedWith e s).Inv :=
  inv_congr (inv_setRun (r := .halted e) (by simp) h) rfl

/-- A PC write at the end of a step that waits for no key. -/
theorem inv_setPc {s : State} {a : Word} (h : s.Inv) (hrun : ∀ x, s.run ≠ .waitingForKey x) (ha : a.toNat ≤ 0x10FE) :
    (s.setPc a).Inv :=
  ⟨h.memory, ha, h.iBound, h.liveEntries, fun x hx => absurd hx (hrun x)⟩

namespace Fetched

variable {s t : State}

theorem congr (h : Fetched s) (hview : invView t = invView s) : Fetched t := by
  have hinv := inv_congr h.inv hview
  simp only [invView, Prod.mk.injEq] at hview
  obtain ⟨_, ⟨hpc, _⟩, _, hrun⟩ := hview
  exact ⟨hinv, hrun.trans h.running, hpc ▸ h.pc_le⟩

theorem setPc {a : Word} (h : Fetched s) (ha : a.toNat ≤ 0x10FE) : (s.setPc a).Inv :=
  inv_setPc h.inv (by simp [h.running]) ha

theorem advance (h : Fetched s) : s.advance.Inv := by
  have hpc := h.pc_le
  exact h.setPc (by bv_omega)

theorem skipIf (c : Bool) (h : Fetched s) : (s.skipIf c).Inv := by
  have hpc := h.pc_le
  refine h.setPc ?_
  cases c <;> simp <;> omega

theorem setI {a : Word} (ha : a.toNat ≤ 0x1000) (h : Fetched s) : Fetched (s.setI a) :=
  ⟨⟨h.inv.memory, h.inv.pcBound, ha, h.inv.liveEntries, h.inv.waitingPc⟩, h.running, h.pc_le⟩

/-- A store inside MEM keeps the canonical form. -/
theorem stored {bytes : List Byte} (hin : inBounds (s.dataAddress 0) bytes.length = true) (hne : bytes.length ≠ 0)
    (h : Fetched s) : Fetched (stored s bytes) := by
  have hroom := ((inBounds_iff _ _).1 hin).resolve_left hne
  exact ⟨⟨wf_writeBytes bytes h.inv.memory hroom, h.inv.pcBound, h.inv.iBound, h.inv.liveEntries, h.inv.waitingPc⟩,
    h.running, h.pc_le⟩

/-- The address of the fetched call is fetchable, so it may become a live entry (R97). -/
theorem pushed (hroom : s.sp.val < 16) (h : Fetched s) : Fetched (pushed s s.pc hroom) := by
  refine ⟨⟨h.inv.memory, h.inv.pcBound, h.inv.iBound, fun k hk => ?_, h.inv.waitingPc⟩, h.running, h.pc_le⟩
  rw [pushed_sp_val] at hk
  rw [pushed_stack, Fin.getElem_fin, Vector.getElem_set]
  split
  · exact h.pc_le
  · exact h.inv.liveEntries k (by omega)

theorem popped (hused : 0 < s.sp.val) (h : Fetched s) : Fetched (popped s hused) := by
  refine ⟨⟨h.inv.memory, h.inv.pcBound, h.inv.iBound, fun k hk => ?_, h.inv.waitingPc⟩, h.running, h.pc_le⟩
  rw [popped_sp_val] at hk
  exact h.inv.liveEntries k (by omega)

/-- The end of FX55 and FX65: the block was inside MEM, so I moves to at most 0x1000. -/
theorem stepI {x : Reg} (h : Fetched s) (hin : s.i.toNat + x.val ≤ 4095) : Fetched (s.stepI x) := by
  refine h.setI (le_trans (toNat_stepI_i rfl rfl hin).le ?_)
  split <;> omega

end Fetched

/-! ### Every instruction keeps the invariant -/

/-- Whatever o answers meets the invariant. -/
def answersInv (o : Answer) : Prop := ∀ t, o = .next t → t.Inv

theorem answersInv_complete {s : State} (d : Bool) (h : s.Inv) : answersInv (complete d s) := by
  intro t ht
  cases ht
  exact inv_report _ h

theorem answersInv_of_raises {i : Instr} {s : State} {e : FatalError} (hraises : raises i s e) (h : s.Inv) :
    answersInv (exec i s) := by
  intro t ht
  cases hraises.symm.trans ht
  exact inv_haltedWith e h

/-- The common end, PC + 2, after writes to nothing that the invariant reads. -/
theorem answersInv_advance {s t : State} {d : Bool} (h : Fetched s) (hview : invView t = invView s) :
    answersInv (complete d t.advance) :=
  answersInv_complete d (h.congr hview).advance

/-- Every instruction that is fetched in a state with the invariant answers one with it. The jumps are bounded by the
width of their operand (R96, R97, R102), the return by its entry. -/
theorem exec_keeps_inv (i : Instr) {s : State} (h : Fetched s) : answersInv (exec i s) := by
  cases i with
  | cls | ldVxNn x nn | addVxNn x nn | ldVxVy x y | orVxVy x y | andVxVy x y | xorVxVy x y | addVxVy x y | subVxVy x y
  | shrVx x y | subnVxVy x y | shlVx x y | rndVxNn x nn | ldVxDt x | ldDtVx x | ldStVx x =>
    exact answersInv_advance h rfl
  | seVxNn x nn | sneVxNn x nn | seVxVy x y | sneVxVy x y | skpVx x | sknpVx x =>
    exact answersInv_complete _ (h.skipIf _)
  | jpNnn nnn => exact answersInv_complete _ (h.setPc (by rw [toNat_addressOf]; omega))
  | jpV0Nnn nnn => exact answersInv_complete _ (h.setPc (by rw [toNat_indexedTarget]; omega))
  | ldINnn nnn => exact answersInv_complete _ (h.setI (by rw [toNat_addressOf]; omega)).advance
  | addIVx x => exact answersInv_complete _ (h.setI (by rw [toNat_word_of_lt] <;> omega)).advance
  | ldFVx x => exact answersInv_complete _ (h.setI (by rw [toNat_word_of_lt] <;> omega)).advance
  | ldVxK x =>
    exact answersInv_complete _ ⟨h.inv.memory, h.inv.pcBound, h.inv.iBound, h.inv.liveEntries, fun _ _ => h.pc_le⟩
  | callNnn nnn =>
    obtain hroom | hfull := Nat.lt_or_eq_of_le (Nat.le_of_lt_succ s.sp.isLt)
    · rw [exec_callNnn nnn hroom]
      exact answersInv_complete _ ((h.pushed hroom).setPc (by rw [toNat_addressOf]; omega))
    · exact answersInv_of_raises (raises_callNnn nnn hfull) h.inv
  | ret =>
    obtain hempty | hused := Nat.eq_zero_or_pos s.sp.val
    · exact answersInv_of_raises (raises_ret hempty) h.inv
    · rw [exec_ret hused]
      have hentry : (s.stack[s.sp.val - 1]).toNat ≤ 0xFFE := h.inv.liveEntries ⟨s.sp.val - 1, by omega⟩ (by simp; omega)
      exact answersInv_complete _ ((h.popped hused).setPc (by bv_omega))
  | drwVxVyN x y n =>
    by_cases hout : 1 ≤ n ∧ s.i.toNat + n - 1 > 4095
    · exact answersInv_of_raises (raises_drwVxVyN hout) h.inv
    · rw [exec_drwVxVyN hout]
      exact answersInv_advance h rfl
  | ldBVx x =>
    obtain hin | hout := le_or_gt (s.i.toNat + 2) 4095
    · rw [exec_ldBVx hin]
      exact answersInv_complete _ (h.stored ((inBounds_dataAddress_iff s 2).2 hin) (by simp)).advance
    · exact answersInv_of_raises (raises_ldBVx hout) h.inv
  | ldMiVx x =>
    obtain hin | hout := le_or_gt (s.i.toNat + x.val) 4095
    · rw [exec_ldMiVx hin]
      have hlen := length_firstRegs s x
      have hbounds : inBounds (s.dataAddress 0) (s.firstRegs x).length = true :=
        hlen ▸ (inBounds_dataAddress_iff s x.val).2 hin
      exact answersInv_complete _ ((h.stored hbounds (by omega)).stepI hin).advance
    · exact answersInv_of_raises (raises_ldMiVx hout) h.inv
  | ldVxMi x =>
    obtain hin | hout := le_or_gt (s.i.toNat + x.val) 4095
    · rw [exec_ldVxMi hin]
      have hloaded : Fetched (s.loadRegs (bytesAtI s x)) := h.congr (by simp [invView])
      exact answersInv_complete _ (hloaded.stepI (by rwa [loadRegs_i])).advance
    · exact answersInv_of_raises (raises_ldVxMi hout) h.inv

/-! ### Every step, operation and schedule keeps the invariant -/

/-- The poll starts from a PC that was fetchable, so the PC it leaves is in range (R166). -/
theorem pollKey_keeps_inv {x : Reg} {s : State} (h : s.Inv) (hrun : s.run = .waitingForKey x) :
    answersInv (pollKey x s) := by
  obtain ⟨k, _, hpoll⟩ | ⟨_, hpoll⟩ := pollKey_cases x s <;> rw [hpoll]
  · have hpc := h.waitingPc x hrun
    have hbound : (s.pc + 2).toNat ≤ 0x10FE := by bv_omega
    exact answersInv_complete _ ⟨h.memory, hbound, h.iBound, h.liveEntries, by simp⟩
  · exact answersInv_complete _ h

/-- Settles O18: in each of the five ways a step goes. -/
theorem stepKeepsTheInvariant : Obligations.StepKeepsTheInvariant := by
  intro s t h hstep
  cases stepTo_of_step hstep with
  | halted e hrun ht => exact ht ▸ inv_report _ h
  | polled x hrun ht => exact pollKey_keeps_inv h hrun t ht
  | fetchRaised hrun hpc ht => exact ht ▸ inv_haltedWith _ h
  | unmatched hrun hpc hd ht => exact ht ▸ inv_report _ (Fetched.advance ⟨h, hrun, Nat.le_of_lt_succ hpc⟩)
  | executed i hrun hpc hd ht => exact exec_keeps_inv i ⟨h, hrun, Nat.le_of_lt_succ hpc⟩ t ht

/-- Settles O19: memory lists nothing, the stack is empty, and the numbers are the constants of R27. -/
theorem resetMeetsTheInvariant : Obligations.ResetMeetsTheInvariant := fun _ =>
  ⟨wf_nil, by rw [resetWith_pc]; decide, by rw [resetWith_i]; decide,
    fun _ hk => absurd hk (Nat.not_lt_zero _), by simp⟩

/-- A program that is accepted ends at address 4095 at the latest (R201). -/
theorem inv_programmed {s : State} {bytes : List Byte} (h : s.Inv) (hacc : loadAccepts bytes = true) :
    (programmed s bytes).Inv := by
  have hbounds := (loadAccepts_iff bytes).1 hacc
  have hroom : 0x200 + bytes.length ≤ memSize := by unfold memSize; omega
  exact ⟨wf_writeBytes bytes h.memory hroom, h.pcBound, h.iBound, h.liveEntries, h.waitingPc⟩

theorem operation_keeps_inv {op : Operation} {z z' : Session} {r : Reply} (h : z.state.Inv)
    (hop : Session.operate op z = .next (z', r)) : z'.state.Inv := by
  cases effect_of_operate hop with
  | reset _ ht => exact ht ▸ inv_congr (resetMeetsTheInvariant z.state.config) rfl
  | load bytes _ hacc ht => exact ht ▸ inv_programmed h hacc
  | step _ ht => exact stepKeepsTheInvariant _ _ h ht
  | tick _ ht => exact ht ▸ inv_congr h rfl
  | key k b _ ht => exact ht ▸ inv_congr h rfl
  | none ht => exact ht ▸ h

theorem runOps_keeps_inv (ops : List Operation) {z z' : Session} (h : z.state.Inv)
    (hrun : Session.runOps ops z = .next z') : z'.state.Inv := by
  induction ops generalizing z with
  | nil => cases hrun; exact h
  | cons op ops ih =>
    rw [Session.runOps] at hrun
    split at hrun
    next t r hop => exact ih (operation_keeps_inv h hop) hrun
    next => cases hrun
    next => cases hrun

/-- Settles O20: each operation keeps the invariant, so by induction a schedule from reset ends in it. -/
theorem everyScheduleKeepsTheInvariant : Obligations.EveryScheduleKeepsTheInvariant :=
  ⟨fun _ _ _ _ => operation_keeps_inv, fun cfg ops _ => runOps_keeps_inv ops (resetMeetsTheInvariant cfg)⟩

end Sys2Proof.Proofs
end

section
/-! Proofs about the frame rule over all instructions (00 section 6) and, from it, about which operation writes which
device element (10 section 1). -/

namespace Sys2Proof.Proofs

open Sys2Proof.Machine Sys2Proof.Laws

/-! ### What each instruction keeps -/

/-- A part that may be written is none of those that may not. -/
theorem ne_of_mayWrite {i : Instr} {s : State} {p q : Part} (hp : ¬ mayWrite i s p) (hq : mayWrite i s q) : p ≠ q :=
  fun h => hp (h ▸ hq)

/-- Every part outside `mayWrite i s` is the same in whatever o answers. -/
def keepsFrame (i : Instr) (s : State) (o : Answer) : Prop := ∀ t p, o = .next t → ¬ mayWrite i s p → samePart s t p

section
variable {i : Instr} {s t : State}

theorem keepsFrame_complete {d : Bool} (h : ∀ p, ¬ mayWrite i s p → samePart s t p) :
    keepsFrame i s (complete d t) := by
  intro u p hu hp
  cases hu
  exact samePart_report _ (h p hp)

/-- The end of most instructions: the PC write, after writes that keep the frame. -/
theorem keepsFrame_setPc {d : Bool} {a : Word} (hpc : mayWrite i s .pc) (h : ∀ p, ¬ mayWrite i s p → samePart s t p) :
    keepsFrame i s (complete d (t.setPc a)) :=
  keepsFrame_complete fun p hp => samePart_setPc a (ne_of_mayWrite hp hpc) (h p hp)

theorem samePart_haltedWith (e : FatalError) (s : State) {p : Part} (hp : p ≠ .run) :
    samePart s (haltedWith e s) p := by
  cases p with
  | run => exact absurd rfl hp
  | _ => rfl

theorem samePart_setRun {p : Part} (r : RunState) (hp : p ≠ .run) (h : samePart s t p) : samePart s (t.setRun r) p := by
  cases p with
  | run => exact absurd rfl hp
  | _ => exact h

theorem keepsFrame_of_raises {e : FatalError} (hraises : raises i s e) (hrun : mayWrite i s .run) :
    keepsFrame i s (exec i s) := by
  intro u p hu hp
  cases hraises.symm.trans hu
  exact samePart_haltedWith e s (ne_of_mayWrite hp hrun)

/-- An instruction that writes V[x] and advances. -/
theorem keepsFrame_writeV {d : Bool} {x : Reg} {b : Byte} (hv : mayWrite i s (.v x)) (hpc : mayWrite i s .pc)
    (h : ∀ p, ¬ mayWrite i s p → samePart s t p) : keepsFrame i s (complete d (t.writeV x b).advance) :=
  keepsFrame_setPc hpc fun p hp => samePart_writeV b (ne_of_mayWrite hp hv) (h p hp)

/-- An instruction that writes VF, then V[x], and advances (R111). -/
theorem keepsFrame_writeFlagged {d c : Bool} {x : Reg} {b : Byte} (hv : mayWrite i s (.v x))
    (hvf : mayWrite i s (.v regF)) (hpc : mayWrite i s .pc) :
    keepsFrame i s (complete d (s.writeFlagged x c b).advance) :=
  keepsFrame_writeV hv hpc fun p hp => samePart_writeV _ (ne_of_mayWrite hp hvf) (samePart_refl s p)

theorem keepsFrame_setI {d : Bool} {a : Word} (hi : mayWrite i s .i) (hpc : mayWrite i s .pc) :
    keepsFrame i s (complete d (s.setI a).advance) :=
  keepsFrame_setPc hpc fun p hp => samePart_setI a (ne_of_mayWrite hp hi) (samePart_refl s p)

/-- The end of FX55 and FX65: I moves only under the policy that lets it (R136), then PC. -/
theorem keepsFrame_stepI {x : Reg} (hi : s.config.loadStoreIncrementsI = true → mayWrite i s .i)
    (hpc : mayWrite i s .pc) (hconfig : t.config = s.config) (h : ∀ p, ¬ mayWrite i s p → samePart s t p) :
    keepsFrame i s (complete false (t.stepI x).advance) := by
  refine keepsFrame_setPc hpc fun p hp => ?_
  cases hpolicy : s.config.loadStoreIncrementsI with
  | true => exact samePart_setI _ (ne_of_mayWrite hp (hi hpolicy)) (h p hp)
  | false =>
    have hkept : (t.stepI x).i = t.i := by simp [hconfig, hpolicy]
    have hsame : t.stepI x = t := congrArg t.setI hkept
    rw [hsame]
    exact h p hp

/-- A block store keeps every part that is no cell of the block. -/
theorem samePart_stored_of_mayWrite {bytes : List Byte} {k : Nat} (hlen : bytes.length = k + 1)
    (hmem : ∀ a, s.dataAddress 0 ≤ a ∧ a ≤ s.dataAddress k → mayWrite i s (.mem a)) {p : Part}
    (hp : ¬ mayWrite i s p) : samePart s (stored s bytes) p :=
  samePart_stored hlen fun ⟨a, hpa, ha⟩ => ne_of_mayWrite hp (hmem a ha) hpa

theorem samePart_drawByte {p : Part} (hp : p ≠ .draws) : samePart s s.drawByte.2 p := by
  cases p with
  | draws => exact absurd rfl hp
  | _ => rfl

end

/-- Every instruction keeps what its rule does not name: each write of its meaning is to a part that it names. -/
theorem exec_keepsFrame (i : Instr) (s : State) : keepsFrame i s (exec i s) := by
  cases i with
  | jpNnn nnn | jpV0Nnn nnn | seVxNn x nn | sneVxNn x nn | seVxVy x y | sneVxVy x y | skpVx x | sknpVx x =>
    exact keepsFrame_setPc trivial fun p _ => samePart_refl s p
  | ldVxNn x nn | addVxNn x nn | ldVxVy x y | orVxVy x y | andVxVy x y | xorVxVy x y | ldVxDt x =>
    exact keepsFrame_writeV rfl trivial fun p _ => samePart_refl s p
  | addVxVy x y | subVxVy x y | shrVx x y | subnVxVy x y | shlVx x y =>
    exact keepsFrame_writeFlagged (.inl rfl) (.inr rfl) trivial
  | rndVxNn x nn =>
    exact keepsFrame_writeV rfl trivial fun p hp => samePart_drawByte (ne_of_mayWrite hp trivial)
  | ldINnn nnn | addIVx x | ldFVx x => exact keepsFrame_setI trivial trivial
  | ldDtVx x =>
    exact keepsFrame_setPc trivial fun p hp => samePart_setDt _ (ne_of_mayWrite hp trivial) (samePart_refl s p)
  | ldStVx x =>
    exact keepsFrame_setPc trivial fun p hp => samePart_setSt _ (ne_of_mayWrite hp trivial) (samePart_refl s p)
  | ldVxK x =>
    exact keepsFrame_complete fun p hp => samePart_setRun _ (ne_of_mayWrite hp trivial) (samePart_refl s p)
  | cls =>
    exact keepsFrame_setPc trivial fun p hp =>
      samePart_setPix _ (fun _ _ h => absurd h (ne_of_mayWrite hp trivial)) (samePart_refl s p)
  | drwVxVyN x y n =>
    by_cases hout : 1 ≤ n ∧ s.i.toNat + n - 1 > 4095
    · exact keepsFrame_of_raises (raises_drwVxVyN hout) trivial
    · rw [exec_drwVxVyN hout]
      exact keepsFrame_writeV rfl trivial fun p hp =>
        samePart_setPix _ (fun _ _ h => absurd h (ne_of_mayWrite hp trivial)) (samePart_refl s p)
  | callNnn nnn =>
    obtain hroom | hfull := Nat.lt_or_eq_of_le (Nat.le_of_lt_succ s.sp.isLt)
    · rw [exec_callNnn nnn hroom]
      exact keepsFrame_setPc trivial fun p hp =>
        samePart_pushed s s.pc hroom (ne_of_mayWrite hp trivial) (ne_of_mayWrite hp rfl)
    · exact keepsFrame_of_raises (raises_callNnn nnn hfull) trivial
  | ret =>
    obtain hempty | hused := Nat.eq_zero_or_pos s.sp.val
    · exact keepsFrame_of_raises (raises_ret hempty) trivial
    · rw [exec_ret hused]
      exact keepsFrame_setPc trivial fun p hp => samePart_popped s hused (ne_of_mayWrite hp trivial)
  | ldBVx x =>
    obtain hin | hout := le_or_gt (s.i.toNat + 2) 4095
    · rw [exec_ldBVx hin]
      exact keepsFrame_setPc trivial fun p hp =>
        samePart_stored_of_mayWrite (i := .ldBVx x) (length_bcdDigits _) (fun _ ha => ha) hp
    · exact keepsFrame_of_raises (raises_ldBVx hout) trivial
  | ldMiVx x =>
    obtain hin | hout := le_or_gt (s.i.toNat + x.val) 4095
    · rw [exec_ldMiVx hin]
      exact keepsFrame_stepI id trivial (stored_config s _) fun p hp =>
        samePart_stored_of_mayWrite (i := .ldMiVx x) (length_firstRegs s x) (fun _ ha => ha) hp
    · exact keepsFrame_of_raises (raises_ldMiVx hout) trivial
  | ldVxMi x =>
    obtain hin | hout := le_or_gt (s.i.toNat + x.val) 4095
    · rw [exec_ldVxMi hin]
      exact keepsFrame_stepI id trivial (loadRegs_config s _) fun p hp =>
        samePart_loadRegs (length_readBytes s.mem _ _) fun ⟨j, hpj, hj⟩ => ne_of_mayWrite hp (q := .v j) hj hpj
    · exact keepsFrame_of_raises (raises_ldVxMi hout) trivial

/-- Settles O21: the frame of every instruction. -/
theorem instructionsWriteOnlyWhatTheirRulesName : Obligations.InstructionsWriteOnlyWhatTheirRulesName :=
  fun i s t p => exec_keepsFrame i s t p

/-! ### What a step keeps -/

/-- A step writes, beside the registers, PC and RUN, only what the instruction at PC may write. -/
theorem step_keeps {s t : State} {p : Part} (hstep : step s = .next t) (hv : ∀ r, p ≠ .v r) (hpc : p ≠ .pc)
    (hrun : p ≠ .run) (hi : ∀ i, instructionAt s = some i → ¬ mayWrite i s p) : samePart s t p := by
  cases stepTo_of_step hstep with
  | halted e _ ht => exact ht ▸ samePart_report _ (samePart_refl s p)
  | polled x _ ht =>
    obtain ⟨k, _, hpoll⟩ | ⟨_, hpoll⟩ := pollKey_cases x s
    · cases hpoll.symm.trans ht
      exact samePart_report _ (samePart_setRun _ hrun
        (samePart_setPc _ hpc (samePart_writeV _ (hv x) (samePart_refl s p))))
    · cases hpoll.symm.trans ht
      exact samePart_report _ (samePart_refl s p)
  | fetchRaised _ _ ht => exact ht ▸ samePart_haltedWith _ s hrun
  | unmatched _ _ _ ht => exact ht ▸ samePart_report _ (samePart_setPc _ hpc (samePart_refl s p))
  | executed i _ hbound hd ht =>
    exact exec_keepsFrame i s t p ht (hi i ((instructionAt_eq_decodeWord_wordAt hbound).trans hd))

/-! ### Who writes each device element -/

/-- Whether an operation on s may change the part p: the "written by" column of 10 section 1 over every agent. -/
def operationMayWrite (op : Operation) (s : State) (p : Part) : Prop :=
  match op with
  | .reset => True
  | .loadProgram bytes => ∃ a, p = .mem a ∧ 0x200 ≤ a ∧ a < 0x200 + bytes.length
  | .step => (∃ r, p = .v r) ∨ p = .pc ∨ p = .run ∨ ∃ i, instructionAt s = some i ∧ mayWrite i s p
  | .tickTimers => p = .dt ∨ p = .st
  | .setKey k _ => p = .key k
  | .framebuffer | .isSoundActive => False

theorem effect_keeps {op : Operation} {s t : State} {p : Part} (heffect : Effect op s t)
    (hp : ¬ operationMayWrite op s p) : samePart s t p := by
  cases heffect with
  | reset hop _ =>
    subst hop
    exact absurd trivial hp
  | load bytes hop _ ht =>
    subst hop ht
    refine samePart_programmed s bytes fun a ha => ?_
    by_contra hin
    exact hp ⟨a, ha, by omega⟩
  | step hop ht =>
    subst hop
    simp only [operationMayWrite, not_or, not_exists, not_and] at hp
    obtain ⟨hv, hpc, hrun, hi⟩ := hp
    exact step_keeps ht hv hpc hrun hi
  | tick hop ht =>
    subst hop ht
    obtain ⟨hdt, hst⟩ := not_or.1 hp
    exact samePart_setSt _ hst (samePart_setDt _ hdt (samePart_refl s p))
  | key k b hop ht =>
    subst hop ht
    exact samePart_setKey k b hp
  | none ht => exact ht ▸ samePart_refl s p

theorem mayWrite_pix_iff {i : Instr} {s : State} {x : Fin 64} {y : Fin 32} :
    mayWrite i s (.pix x y) ↔ isDisplay i := by
  cases i <;> exact Iff.rfl

theorem mayWrite_dt_iff {i : Instr} {s : State} : mayWrite i s .dt ↔ ∃ x, i = .ldDtVx x := by
  cases i <;> simp [mayWrite]

theorem mayWrite_st_iff {i : Instr} {s : State} : mayWrite i s .st ↔ ∃ x, i = .ldStVx x := by
  cases i <;> simp [mayWrite]

section
variable {op : Operation} {s : State}

theorem operationMayWrite_key {k : Reg} (hop : op ≠ .reset) (h : operationMayWrite op s (.key k)) :
    ∃ b, op = .setKey k b := by
  cases op <;> simp_all [operationMayWrite, mayWrite]

theorem operationMayWrite_pix {x : Fin 64} {y : Fin 32} (hop : op ≠ .reset) (h : operationMayWrite op s (.pix x y)) :
    op = .step ∧ ∃ i, instructionAt s = some i ∧ isDisplay i := by
  cases op <;> simp_all [operationMayWrite, mayWrite_pix_iff]

theorem operationMayWrite_dt (hop : op ≠ .reset) (h : operationMayWrite op s .dt) :
    op = .tickTimers ∨ op = .step ∧ ∃ x, instructionAt s = some (.ldDtVx x) := by
  cases op <;> simp_all [operationMayWrite, mayWrite_dt_iff]

theorem operationMayWrite_st (hop : op ≠ .reset) (h : operationMayWrite op s .st) :
    op = .tickTimers ∨ op = .step ∧ ∃ x, instructionAt s = some (.ldStVx x) := by
  cases op <;> simp_all [operationMayWrite, mayWrite_st_iff]

theorem operationMayWrite_mem {a : Nat} (hop : op ≠ .reset) (h : operationMayWrite op s (.mem a)) :
    (∃ bytes, op = .loadProgram bytes ∧ 0x200 ≤ a ∧ a < 0x200 + bytes.length) ∨
      op = .step ∧ ∃ i, instructionAt s = some i ∧ storesTo i s a := by
  cases op <;> simp_all [operationMayWrite, mayWrite]

end

/-- No operation, the reset included, writes the configuration (R5). -/
theorem config_of_effect {op : Operation} {s t : State} (heffect : Effect op s t) : t.config = s.config := by
  cases heffect with
  | step _ ht => exact step_keeps (p := .config) ht nofun nofun nofun fun _ _ h => h
  | reset _ ht | load _ _ _ ht | tick _ ht | key _ _ _ ht | none ht =>
    subst ht
    rfl

/-- Settles O22: a part that has changed is one that the operation may write. -/
theorem whoWritesWhat : Obligations.WhoWritesWhat := by
  intro op z z' r hanswer
  have heffect := effect_of_operate hanswer
  have hwritten (p : Part) (hp : ¬ samePart z.state z'.state p) : operationMayWrite op z.state p :=
    not_not.1 fun h => hp (effect_keeps heffect h)
  refine ⟨config_of_effect heffect, fun hop => ⟨fun k hk => operationMayWrite_key hop (hwritten (.key k) hk), ?pix,
    fun hdt => operationMayWrite_dt hop (hwritten .dt hdt), fun hst => operationMayWrite_st hop (hwritten .st hst),
    fun a ha => operationMayWrite_mem hop (hwritten (.mem a) ha)⟩⟩
  case pix =>
    intro hpix
    by_contra hnone
    exact hpix (display_ext fun x y => effect_keeps (p := .pix x y) heffect fun h =>
      hnone (operationMayWrite_pix hop h))

end Sys2Proof.Proofs
end

section
/-! Proofs about stores that are read again (20 sections 2 and 7): by a load from the same address, by the next fetch,
and by the fetch of a word that was placed for it. -/

namespace Sys2Proof.Proofs

open Sys2Proof.Machine Sys2Proof.Laws

/-! ### The block that FX55 stores -/

/-- What an FX55 inside MEM leaves: the registers up to VX at I, in memory of the same machine (R134). -/
theorem byteAt_of_exec_ldMiVx {x j : Reg} {s t : State} (hw : Memory.wf s.config.font s.mem = true)
    (hin : s.i.toNat + x.val ≤ 4095) (he : exec (.ldMiVx x) s = .next t) (hj : j ≤ x) :
    Memory.read s.config.font t.mem (s.dataAddress j.val) = s.readV j := by
  cases (exec_ldMiVx hin).symm.trans he
  have hlen := length_firstRegs s x
  have hbounds : inBounds (s.dataAddress 0) (s.firstRegs x).length = true :=
    hlen ▸ (inBounds_dataAddress_iff s x.val).2 hin
  have hj' : j.val < (s.firstRegs x).length := hlen ▸ Nat.lt_succ_of_le hj
  exact (byteAt_stored hw hbounds hj').trans (getElem_firstRegs s hj')

theorem config_of_exec_ldMiVx {x : Reg} {s t : State} (hin : s.i.toNat + x.val ≤ 4095)
    (he : exec (.ldMiVx x) s = .next t) : t.config = s.config := by
  cases (exec_ldMiVx hin).symm.trans he
  rfl

/-- Settles O38: FX65 reads register j from the address where FX55 put it. -/
theorem blockStoreThenLoadRestores : Obligations.BlockStoreThenLoadRestores := by
  intro x s t u hw hin he hmem hconfig hi
  have hin' : u.i.toNat + x.val ≤ 4095 := by rwa [hi]
  refine ⟨_, exec_ldVxMi hin', fun j hj => ?_⟩
  rw [readV_report, readV_advance, readV_stepI, readV_loadRegs_bytesAtI u hj, State.byteAt, State.dataAddress, hmem,
    hconfig, hi]
  exact byteAt_of_exec_ldMiVx hw hin he hj

/-- Settles O39: the fetch at the old I reads the first two bytes of the block. -/
theorem storedWordIsFetched : Obligations.StoredWordIsFetched := by
  intro x s t hw hx hin he
  have hpc : s.i.toNat < 4095 := by omega
  have hconfig := config_of_exec_ldMiVx hin he
  have hhigh : t.byteAt s.i.toNat = s.readV 0 := by
    rw [State.byteAt, hconfig]
    exact byteAt_of_exec_ldMiVx hw hin he (j := 0) (Fin.zero_le x)
  have hlow : t.byteAt (s.i.toNat + 1) = s.readV 1 := by
    rw [State.byteAt, hconfig]
    exact byteAt_of_exec_ldMiVx hw hin he (j := 1) hx
  rw [← hhigh, ← hlow]
  exact fetchWord_eq_wordAt (s := { t with pc := s.i }) hpc

/-! ### A word placed for the next fetch -/

/-- PC, where it can be fetched from, or 0x200 (log 12): a fetch is in bounds there. -/
theorem fetchablePc_lt (s : State) : (fetchablePc s).toNat < 4095 := by
  unfold fetchablePc
  split
  next h =>
    have hroom := ((inBounds_iff _ _).1 h).resolve_left (by decide)
    unfold memSize at hroom
    omega
  next => decide

/-- The two bytes that are placed read back, high byte first (R44). -/
theorem byteAt_placeFetchWord {s : State} (w : Nat) (hw : Memory.wf s.config.font s.mem = true) :
    (placeFetchWord s w).byteAt (fetchablePc s).toNat = BitVec.ofNat 8 (w / 256) ∧
      (placeFetchWord s w).byteAt ((fetchablePc s).toNat + 1) = BitVec.ofNat 8 w := by
  have hpc := fetchablePc_lt s
  have hroom : (fetchablePc s).toNat + 2 ≤ memSize := by unfold memSize; omega
  exact ⟨read_writeBytes (bytes := [_, _]) (j := 0) hw hroom (by simp),
    read_writeBytes (bytes := [_, _]) (j := 1) hw hroom (by simp)⟩

/-- Settles O55: the word at PC is the one whose bytes were placed there. -/
theorem placedWordIsFetched : Obligations.PlacedWordIsFetched := by
  intro s w hw hlt
  obtain ⟨hhigh, hlow⟩ := byteAt_placeFetchWord (w % 2 ^ 16) hw
  refine ⟨rfl, (fetchWord_eq_wordAt (fetchablePc_lt s)).trans (congrArg some ?_)⟩
  have hpc : (s.withFetchWord 16 w).pc = fetchablePc s := rfl
  rw [hpc, wordAt, State.withFetchWord, hhigh, hlow, BitVec.toNat_ofNat, BitVec.toNat_ofNat]
  congr 1
  omega

end Sys2Proof.Proofs
end

section
/-! Proofs about the arithmetic that writes a flag and the random byte (42): an instruction that writes VF, then V[X],
and the results and flags as natural numbers. -/

namespace Sys2Proof.Proofs

open Sys2Proof.Machine Sys2Proof.Laws

/-! ### VF, then V[X], and PC + 2 -/

/-- An instruction whose meaning is to write the flag c and the result b and advance keeps every part but V[X], VF and
PC; VF holds the flag unless it is V[X] (R111). -/
theorem completes_of_writeFlagged {i : Instr} {s : State} {x : Reg} {c : Bool} {b : Byte} {post : State → Prop}
    (he : exec i s = complete false (s.writeFlagged x c b).advance)
    (hpost : ∀ t : State, t.readV x = b → t.pc = s.pc + 2 → (x ≠ regF → t.readV regF = flagByte c) → post t) :
    completes i s false (fun p => p = .v x ∨ p = .v regF ∨ p = .pc) post := by
  refine completes_of_complete he (fun p hp => ?frame) (hpost _ ?result rfl fun hx => ?flag)
  case frame =>
    obtain ⟨hv, hvf, hpc⟩ : p ≠ .v x ∧ p ≠ .v regF ∧ p ≠ .pc := by simpa only [not_or] using hp
    exact samePart_setPc _ hpc (samePart_writeV _ hv (samePart_writeV _ hvf (samePart_refl s p)))
  case result => exact (readV_writeFlagged s x x c b).trans (if_pos rfl)
  case flag => exact (readV_writeFlagged s x regF c b).trans ((if_neg hx.symm).trans (if_pos rfl))

theorem toNat_flagByte (c : Bool) : (flagByte c).toNat = if c then 1 else 0 := by cases c <;> rfl

theorem toNat_flagByte_decide (P : Prop) [Decidable P] : (flagByte (decide P)).toNat = if P then 1 else 0 := by
  simp [toNat_flagByte]

/-- Settles O30: the sum modulo 256, and the carry out of the exact sum. -/
theorem addSetsCarry : Obligations.AddSetsCarry := fun _ _ _ =>
  completes_of_writeFlagged rfl fun _ hv hpc hf =>
    ⟨hv ▸ BitVec.toNat_add _ _, hpc, fun hx => hf hx ▸ toNat_flagByte_decide _⟩

theorem toNat_byte_sub (a b : Byte) : (a - b).toNat = (a.toNat + 256 - b.toNat) % 256 := by
  bv_omega

/-- Settles O31: the difference modulo 256, and no borrow when the minuend is at least the subtrahend. -/
theorem subtractSetsNoBorrow : Obligations.SubtractSetsNoBorrow := fun _ _ _ =>
  ⟨completes_of_writeFlagged rfl fun _ hv hpc hf =>
      ⟨hv ▸ toNat_byte_sub _ _, hpc, fun hx => hf hx ▸ toNat_flagByte_decide _⟩,
    completes_of_writeFlagged rfl fun _ hv hpc hf =>
      ⟨hv ▸ toNat_byte_sub _ _, hpc, fun hx => hf hx ▸ toNat_flagByte_decide _⟩⟩

theorem toNat_flagByte_shiftedOutRight (b : Byte) : (flagByte (shiftedOutRight b)).toNat = b.toNat % 2 := by
  rw [toNat_flagByte, shiftedOutRight, BitVec.getLsbD, Nat.testBit_zero]
  obtain h | h := Nat.mod_two_eq_zero_or_one b.toNat <;> simp [h]

theorem toNat_flagByte_shiftedOutLeft (b : Byte) : (flagByte (shiftedOutLeft b)).toNat = b.toNat / 128 := by
  have hb : b.toNat < 256 := b.isLt
  rw [toNat_flagByte, shiftedOutLeft, BitVec.getLsbD, Nat.testBit_eq_decide_div_mod_eq]
  simp only [decide_eq_true_eq]
  split <;> omega

theorem toNat_shiftRight_one (b : Byte) : (b >>> 1).toNat = b.toNat / 2 := by
  rw [BitVec.toNat_ushiftRight, Nat.shiftRight_eq_div_pow]

theorem toNat_shiftLeft_one (b : Byte) : (b <<< 1).toNat = b.toNat * 2 % 256 := by
  rw [BitVec.toNat_shiftLeft, Nat.shiftLeft_eq]

/-- Settles O32: halving drops bit 0, doubling modulo 256 drops bit 7. -/
theorem shiftsReportTheBitShiftedOut : Obligations.ShiftsReportTheBitShiftedOut := fun _ _ _ =>
  ⟨completes_of_writeFlagged rfl fun _ hv hpc hf =>
      ⟨hv ▸ toNat_shiftRight_one _, hpc, fun hx => hf hx ▸ toNat_flagByte_shiftedOutRight _⟩,
    completes_of_writeFlagged rfl fun _ hv hpc hf =>
      ⟨hv ▸ toNat_shiftLeft_one _, hpc, fun hx => hf hx ▸ toNat_flagByte_shiftedOutLeft _⟩⟩

/-- Settles O33: the byte drawn, under the mask, is the one register write; the counter is the only other change. -/
theorem randomByteUnderMask : Obligations.RandomByteUnderMask := by
  refine fun x nn s => completes_of_complete (t := (s.drawByte.2.writeV x (s.drawByte.1 &&& nn)).advance) rfl
    (fun p hp => ?frame) ⟨rfl, rfl, fun k _ => ?bits⟩
  case frame =>
    obtain ⟨hv, hpc, hdraws⟩ : p ≠ .v x ∧ p ≠ .pc ∧ p ≠ .draws := by simpa only [not_or] using hp
    exact samePart_setPc _ hpc (samePart_writeV _ hv (samePart_drawByte hdraws))
  case bits =>
    rw [readV_report, readV_advance, readV_writeV_self, BitVec.getLsbD_and, drawByte_byte]

end Sys2Proof.Proofs
end

section
/-! Proofs about the keypad (46): the key skips, entering the key wait, and the poll that ends it. -/

namespace Sys2Proof.Proofs

open Sys2Proof.Machine Sys2Proof.Laws

/-! ### The skips and the wait -/

/-- The key tested is the number V[X] modulo 16 (R164). -/
theorem keyIndex_eq {s : State} {x k : Reg} (h : k.val = (s.readV x).toNat % 16) : s.keyIndex x = k := by
  apply Fin.ext
  rw [h]
  simp [State.keyIndex]

/-- Settles O46: each key skip is `skipIf` of the key's state, or of its negation. -/
theorem keySkipsTestOneKey : Obligations.KeySkipsTestOneKey := by
  intro x k s hk
  have hindex := keyIndex_eq hk
  refine ⟨completes_of_skipIf rfl (fun h => ?_) fun h => ?_, completes_of_skipIf rfl (fun h => ?_) fun h => ?_⟩ <;>
    simpa [hindex, State.keyPressed] using h

/-- Settles O47: FX0A is one write of RUN. -/
theorem keyWaitIsEntered : Obligations.KeyWaitIsEntered := fun x s =>
  completes_of_complete (t := s.setRun (.waitingForKey x)) rfl
    (fun p hp => samePart_setRun _ hp (samePart_refl s p)) rfl

/-! ### The poll -/

/-- The key that the poll finds is the pressed one below which none is pressed (R167). -/
theorem lowestKey_eq_some {s : State} {k : Reg} (hk : s.key[k] = true) (hbelow : ∀ j : Reg, j < k → s.key[j] = false) :
    s.lowestKey = some k := by
  refine List.find?_eq_some_iff_getElem.2 ⟨hk, k.val, by simp, by simp, fun j hj => ?_⟩
  simpa [State.keyPressed] using hbelow ⟨j, by omega⟩ hj

theorem toNat_byteOfReg (k : Reg) : (byteOfReg k).toNat = k.val := by
  rw [byteOfReg, BitVec.toNat_ofNat]
  omega

/-- Settles O48: with a key pressed the poll writes the least one's number, PC and RUN; with none it writes nothing. -/
theorem pollStoresTheLowestKey : Obligations.PollStoresTheLowestKey := by
  refine fun s x hrun => ⟨fun k hk hbelow => ?pressed, fun hkeys => ?none⟩
  case pressed =>
    refine ⟨_, (step_waiting hrun).trans (pollKey_of_some (lowestKey_eq_some hk hbelow)), ?_, rfl, rfl, rfl,
      fun p hv hpc hr => ?_⟩
    · rw [readV_report, readV_setRun, readV_advance, readV_writeV_self, toNat_byteOfReg]
    · exact samePart_report _ (samePart_setRun _ hr (samePart_setPc _ hpc (samePart_writeV _ hv (samePart_refl s p))))
  case none => exact (step_waiting hrun).trans (pollKey_of_none (lowestKey_eq_none.2 hkeys))

end Sys2Proof.Proofs
end

section
/-! Proofs about DXYN (44): the cells of a sprite are distinct, so drawing toggles each of them once; from that what one
draw does, and that a second one undoes it. -/

namespace Sys2Proof.Proofs

open Sys2Proof.Machine Sys2Proof.Laws

/-! ### The cells of a sprite are distinct -/

/-- Fewer than 64 columns in a row wrap onto different columns. -/
theorem spriteColumn_inj {x0 : Byte} {c c' : Nat} (hc : c < 8) (hc' : c' < 8)
    (h : spriteColumn x0 c = spriteColumn x0 c') : c = c' := by
  have hval : (x0.toNat + c) % 64 = (x0.toNat + c') % 64 := congrArg Fin.val h
  omega

theorem nodup_rowCells (x0 y0 row : Byte) (r : Nat) : (rowCells x0 y0 row r).Nodup := by
  refine List.Nodup.map_on (fun c hc c' hc' h => ?_) (List.nodup_range.filter _)
  have hlt : c < 8 := List.mem_range.1 (List.mem_filter.1 hc).1
  have hlt' : c' < 8 := List.mem_range.1 (List.mem_filter.1 hc').1
  exact spriteColumn_inj hlt hlt' (congrArg Prod.fst h)

/-- Up to 32 rows wrap onto different rows of the display, whatever number the first one has. -/
theorem nodup_spriteCells (x0 y0 : Byte) {rows : List Byte} (hlen : rows.length ≤ 32) (k : Nat) :
    (spriteCells x0 y0 rows k).Nodup := by
  induction rows generalizing k with
  | nil => exact List.nodup_nil
  | cons row rows ih =>
    rw [List.length_cons] at hlen
    refine (nodup_rowCells x0 y0 row k).append (ih (by omega) (k + 1)) fun p hfirst hrest => ?_
    obtain ⟨c, _, _, rfl⟩ := mem_rowCells.1 hfirst
    obtain ⟨r, hr, c', _, _, hp⟩ := mem_spriteCells.1 hrest
    have hrow : (y0.toNat + k) % 32 = (y0.toNat + (k + 1 + r)) % 32 := congrArg (fun q => q.2.val) hp
    omega

/-- Settles O42: columns and rows each wrap without meeting. -/
theorem spritePixelsFallOnDistinctCells : Obligations.SpritePixelsFallOnDistinctCells :=
  fun vx vy _ hlen => nodup_spriteCells vx vy (by omega) 0

/-! ### Drawing distinct cells -/

section
variable {cells : List (Fin 64 × Fin 32)} (d : Display) (c : Bool)

theorem cell_drawCells (h : cells.Nodup) (x : Fin 64) (y : Fin 32) :
    (drawCells cells d c).1.cell x y = if (x, y) ∈ cells then !d.cell x y else d.cell x y := by
  induction cells generalizing d c with
  | nil => rfl
  | cons p cells ih =>
    obtain ⟨a, b⟩ := p
    obtain ⟨hfresh, hrest⟩ := List.nodup_cons.1 h
    rw [drawCells, ih _ _ hrest, cell_toggle]
    by_cases hp : x = a ∧ y = b
    · obtain ⟨rfl, rfl⟩ := hp
      simp [hfresh]
    · simp [hp]

/-- The flag says whether one of the cells was on before the draw. -/
theorem collision_drawCells (h : cells.Nodup) :
    (drawCells cells d c).2 = true ↔ c = true ∨ ∃ x y, (x, y) ∈ cells ∧ d.cell x y = true := by
  induction cells generalizing d c with
  | nil => simp
  | cons p cells ih =>
    obtain ⟨a, b⟩ := p
    obtain ⟨hfresh, hrest⟩ := List.nodup_cons.1 h
    have hsame (x y) (hxy : (x, y) ∈ cells) : (d.toggle a b).cell x y = d.cell x y := by
      rw [cell_toggle, if_neg]
      rintro ⟨rfl, rfl⟩
      exact hfresh hxy
    rw [drawCells, ih _ _ hrest, Bool.or_eq_true, or_assoc]
    refine or_congr_right ⟨?_, ?_⟩
    · rintro (hab | ⟨x, y, hxy, hon⟩)
      · exact ⟨a, b, List.mem_cons_self, hab⟩
      · exact ⟨x, y, List.mem_cons_of_mem _ hxy, hsame x y hxy ▸ hon⟩
    · rintro ⟨x, y, hxy, hon⟩
      obtain hhead | htail := List.mem_cons.1 hxy
      · cases hhead
        exact .inl hon
      · exact .inr ⟨x, y, htail, (hsame x y htail).trans hon⟩

end

/-! ### The cells of a DXYN -/

/-- The cells that DXYN toggles, read from the registers and the bytes at I before anything is written. -/
def drawnCells (s : State) (x y : Reg) (n : Nat) : List (Fin 64 × Fin 32) :=
  spriteCells (s.readV x) (s.readV y) (Memory.readBytes s.config.font s.mem (s.dataAddress 0) n) 0

section
variable {s : State} {x y : Reg} {n : Nat}

theorem drawn_eq : drawn s x y n = drawCells (drawnCells s x y n) s.pix false := rfl

theorem nodup_drawnCells (hn : n ≤ 15) : (drawnCells s x y n).Nodup :=
  nodup_spriteCells _ _ (by rw [length_readBytes]; omega) 0

theorem mem_drawnCells_iff {cx : Fin 64} {cy : Fin 32} :
    (cx, cy) ∈ drawnCells s x y n ↔ spriteCovers s (s.readV x) (s.readV y) n cx cy := by
  rw [drawnCells, mem_spriteCells]
  constructor
  · rintro ⟨r, hr, c, hc, hbit, hp⟩
    rw [getElem_readBytes] at hbit
    rw [length_readBytes] at hr
    obtain ⟨rfl, rfl⟩ := Prod.mk.inj hp
    exact ⟨r, hr, c, hc, hbit, rfl, by simp [spriteRow]⟩
  · rintro ⟨r, hr, c, hc, hbit, hx, hy⟩
    refine ⟨r, by rwa [length_readBytes], c, hc, ?_, Prod.ext (Fin.ext hx) (Fin.ext ?_)⟩
    · rw [getElem_readBytes]
      exact hbit
    · simpa [spriteRow] using hy

variable {cx : Fin 64} {cy : Fin 32} (hn : n ≤ 15)
include hn

theorem cell_drawn_of_covers (h : spriteCovers s (s.readV x) (s.readV y) n cx cy) :
    (drawn s x y n).1.cell cx cy = !s.pix.cell cx cy :=
  (cell_drawCells s.pix false (nodup_drawnCells hn) cx cy).trans (if_pos (mem_drawnCells_iff.2 h))

theorem cell_drawn_of_not_covers (h : ¬ spriteCovers s (s.readV x) (s.readV y) n cx cy) :
    (drawn s x y n).1.cell cx cy = s.pix.cell cx cy :=
  (cell_drawCells s.pix false (nodup_drawnCells hn) cx cy).trans (if_neg (mt mem_drawnCells_iff.1 h))

theorem collision_drawn_iff :
    (drawn s x y n).2 = true ↔
      ∃ cx cy, spriteCovers s (s.readV x) (s.readV y) n cx cy ∧ s.pix.cell cx cy = true := by
  simp only [drawn_eq, collision_drawCells s.pix false (nodup_drawnCells hn), mem_drawnCells_iff, Bool.false_eq_true,
    false_or]

end

/-! ### One draw -/

/-- The state that a DXYN inside MEM leaves (R146). -/
def drawnState (s : State) (x y : Reg) (n : Nat) : State :=
  (((s.setPix (drawn s x y n).1).writeV regF (flagByte (drawn s x y n).2)).advance).report ⟨.ok, true⟩

section
variable (s : State) (x y : Reg) (n : Nat)

@[simp] theorem drawnState_pix : (drawnState s x y n).pix = (drawn s x y n).1 := rfl

@[simp] theorem readV_drawnState_regF : (drawnState s x y n).readV regF = flagByte (drawn s x y n).2 :=
  readV_writeV_self _ regF _

theorem readV_drawnState_other {r : Reg} (hr : r ≠ regF) : (drawnState s x y n).readV r = s.readV r :=
  readV_writeV_other _ hr _

/-- A draw writes neither I nor MEM, so the sprite at the same coordinates is the same. -/
theorem spriteCovers_drawnState {vx vy : Byte} {cx : Fin 64} {cy : Fin 32} :
    spriteCovers (drawnState s x y n) vx vy n cx cy ↔ spriteCovers s vx vy n cx cy := Iff.rfl

end

/-- Settles O41: the cells of the sprite are distinct, so each is toggled once, and the flag is the draw's
collision. -/
theorem drawTogglesExactlyTheSprite : Obligations.DrawTogglesExactlyTheSprite := by
  refine fun x y n s hn => ⟨fun hin => ?completes, raises_drwVxVyN⟩
  refine completes_of_complete (exec_drwVxVyN (by omega)) (fun p hp => ?frame)
    ⟨fun cx cy => cell_drawn_of_covers hn, fun hon => ?collision, fun hoff => ?clear, rfl⟩
  case frame =>
    obtain ⟨hpc, hvf, hpix⟩ : p ≠ .pc ∧ p ≠ .v regF ∧ _ := by simpa only [not_or] using hp
    refine samePart_setPc _ hpc (samePart_writeV _ hvf (samePart_setPix _ (fun cx cy hcell => ?_) (samePart_refl s p)))
    exact cell_drawn_of_not_covers hn fun h => hpix ⟨cx, cy, hcell, h⟩
  case collision =>
    have hflag : (drawn s x y n).2 = true := (collision_drawn_iff hn).2 hon
    exact (readV_drawnState_regF s x y n).trans (congrArg flagByte hflag)
  case clear =>
    have hflag : (drawn s x y n).2 = false := by
      rw [Bool.eq_false_iff, Ne, collision_drawn_iff hn]
      rintro ⟨cx, cy, hcover, hon⟩
      simp [hoff cx cy hcover] at hon
    exact (readV_drawnState_regF s x y n).trans (congrArg flagByte hflag)

/-! ### Two draws -/

theorem flagByte_eq_one_iff (c : Bool) : flagByte c = 1 ↔ c = true := by cases c <;> decide

/-- Settles O43: the second draw toggles the same cells back, and collides where the first left a cell on. -/
theorem drawingTwiceRestoresTheDisplay : Obligations.DrawingTwiceRestoresTheDisplay := by
  intro x y n s t hx hy hn hin he
  have hroom : ¬ (1 ≤ n ∧ s.i.toNat + n - 1 > 4095) := by omega
  obtain rfl : drawnState s x y n = t := Host.Outcome.next.inj ((exec_drwVxVyN hroom).symm.trans he)
  have hvx := readV_drawnState_other s x y n hx
  have hvy := readV_drawnState_other s x y n hy
  have hcovers (cx cy) : spriteCovers (drawnState s x y n) ((drawnState s x y n).readV x) ((drawnState s x y n).readV y)
      n cx cy ↔ spriteCovers s (s.readV x) (s.readV y) n cx cy := by
    rw [hvx, hvy]
    exact spriteCovers_drawnState s x y n
  refine ⟨drawnState (drawnState s x y n) x y n, exec_drwVxVyN hroom, display_ext fun cx cy => ?_, ?_⟩
  · by_cases h : spriteCovers s (s.readV x) (s.readV y) n cx cy
    · rw [drawnState_pix, cell_drawn_of_covers hn ((hcovers cx cy).2 h), drawnState_pix, cell_drawn_of_covers hn h,
        Bool.not_not]
    · rw [drawnState_pix, cell_drawn_of_not_covers hn (mt (hcovers cx cy).1 h), drawnState_pix,
        cell_drawn_of_not_covers hn h]
  · rw [readV_drawnState_regF, flagByte_eq_one_iff, collision_drawn_iff hn]
    refine exists_congr fun cx => exists_congr fun cy => ?_
    rw [hcovers]
    refine and_congr_right fun h => ?_
    rw [drawnState_pix, cell_drawn_of_covers hn h, Bool.not_eq_true']

end Sys2Proof.Proofs
end
